-- ==== Sys2Proof/Word.lean ====
section
/-! DEFINITION. The word types of SEEDCODEC: what the spec treats as bits, with the spec's widths. -/

namespace Sys2Proof

/-- A register-window word: every register is 32 bits wide on the bus (R61, R66). -/
abbrev Word := BitVec 32

/-- A symbol: "an integer in `[0, 2047]`", 11 bits (R6, R16). -/
abbrev Sym11 := BitVec 11

/-- An offset into the register window: "the 12-bit value address − BASE" (R60). -/
abbrev Offset := BitVec 12

/-- The 143-bit payload `P = RSV ‖ BDAY ‖ KEY` (R95). -/
abbrev Payload := BitVec 143

/-- The 13 payload symbols `s_0 .. s_12` (R96). -/
abbrev PayloadSyms := Vector Sym11 13

/-- 14 symbols by text position; the domain (text or codeword) is the context's (R15, R97). -/
abbrev Codeword := Vector Sym11 14

end Sys2Proof
end

