-- ==== Sys2Proof/Config.lean ====
section
/-! DEFINITION. What is fixed for one block and is no state: the code parameters of R7 at the values this spec
fixes, and the platform parameters of R8. LAT(op, operands) is not here: the model represents latency by the
interleaving of Host accesses and completions, as R290 allows (notes/assumptions/2.md). -/

namespace Sys2Proof

/-- The two readings the source leaves open for the coin-flag transform (R7 FLAG_OP, R190). -/
inductive FlagOp where
  /-- format subtracts COIN, parse adds it, modulo 2048 -/
  | modularOffset
  /-- exclusive-or with COIN, both ways -/
  | exclusiveOr
  deriving DecidableEq, Repr

/-- The two orders in which the text positions can be the coefficients of the codeword polynomial (R7 COEFF_ORDER;
C2 names "either coefficient order"). -/
inductive CoeffOrder where
  /-- text position p is the coefficient of `x^(13−p)` -/
  | descending
  /-- text position p is the coefficient of `x^p` -/
  | ascending
  deriving DecidableEq, Repr

/-- The power of `x` whose coefficient text position `p` is. -/
def CoeffOrder.exponent : CoeffOrder → Fin 14 → Nat
  | .descending, p => 13 - p.val
  | .ascending, p  => p.val

/-- The symbols of a vector from the highest power of `x` to the lowest. -/
def CoeffOrder.fromHighest : CoeffOrder → Codeword → List Sym11
  | .descending, w => w.toList
  | .ascending, w  => w.toList.reverse

/-- Which bits of a register a byte lane of a byte-addressed bus carries (R66). -/
inductive ByteOrder where
  | little
  | big
  deriving DecidableEq, Repr

/-- The code parameters of R7: "A model takes them as a configuration record with these defaults". Every function
and every command effect that rests on one of them takes the record as its last argument, with `Config.code` as that
argument's default (I1 to I3 call them parameters). -/
structure CodeParams where
  /-- GF_POLY: the reduction polynomial, bit k the coefficient of `x^k` -/
  gfPoly     : BitVec 12
  /-- ALPHA: the evaluation point -/
  alpha      : Sym11
  /-- CHECK_POS: the text position of the check symbol -/
  checkPos   : Fin 14
  /-- COEFF_ORDER -/
  coeffOrder : CoeffOrder
  /-- FLAG_POS: the flagged text position -/
  flagPos    : Fin 14
  /-- FLAG_OP -/
  flagOp     : FlagOp
  /-- COIN_BITS: the implemented width of COIN, at most the 11 bits of a symbol -/
  coinBits   : Nat
  deriving DecidableEq, Repr

/-- The block's values: "This spec fixes them as the block's values" (R7; notes/assumptions/1.md). -/
def Config.code : CodeParams where
  gfPoly     := 0x805
  alpha      := 2
  checkPos   := 13
  coeffOrder := .descending
  flagPos    := 1
  flagOp     := .modularOffset
  coinBits   := 11

/-- BASE / 4096. The platform chooses BASE, "a multiple of 4096" (R8, D30): nothing constrains this number
(notes/assumptions/3.md). -/
opaque Config.basePage : Nat

/-- BASE, the bus address of the register window (R8, R60). -/
def Config.base : Nat := 4096 * Config.basePage

/-- The byte-lane order of a byte-addressed platform bus that the spec takes as the default (R66, D20). The order is the
platform's parameter (I9): `byteLane` takes it as an argument with this default (notes/assumptions/4.md). -/
def Config.byteOrder : ByteOrder := .little

end Sys2Proof
end

