-- ==== Sys2Proof/Syntax.lean ====
section
/-! DEFINITION. The commands of SEEDCODEC: one constructor per row of spec/opcode_table.json. A command has no
operands in its encoding: "Commands take no immediates. Their operands are implicit registers" (R91). -/

namespace Sys2Proof

/-- The eleven commands of R92, in the order of their opcodes. -/
inductive Instr where
  /-- complete and do nothing else (R230) -/
  | nop
  /-- pack RSV, BDAY, KEY into SYM[0..12] (R140) -/
  | pack
  /-- unpack SYM[0..12] into RSV, BDAY, KEY (R141) -/
  | unpack
  /-- SYM[13] from SYM[0..12] (R160) -/
  | genchk
  /-- STATUS.VALID from SYM[0..13] (R161) -/
  | verify
  /-- flag SYM[1] with COIN (R190) -/
  | flag
  /-- un-flag SYM[1] with COIN (R191) -/
  | unflag
  /-- fill the erased position ERIDX (R162) -/
  | repair
  /-- classify a parse (R192) -/
  | decode
  /-- format with self-check (R201) -/
  | encode
  /-- soft reset (R231) -/
  | srst
  deriving DecidableEq, Repr

/-- The commands in opcode order (R92). -/
def Instr.all : List Instr :=
  [.nop, .pack, .unpack, .genchk, .verify, .flag, .unflag, .repair, .decode, .encode, .srst]

/-- A command's assembly text: "its mnemonic alone, in capitals" (R98). -/
def Instr.mnemonic : Instr → String
  | .nop    => "NOP"
  | .pack   => "PACK"
  | .unpack => "UNPACK"
  | .genchk => "GENCHK"
  | .verify => "VERIFY"
  | .flag   => "FLAG"
  | .unflag => "UNFLAG"
  | .repair => "REPAIR"
  | .decode => "DECODE"
  | .encode => "ENCODE"
  | .srst   => "SRST"

/-- Reads a command's assembly text (R98). -/
def Instr.ofMnemonic (text : String) : Option Instr :=
  Instr.all.find? fun i => i.mnemonic == text

end Sys2Proof
end

