-- ==== Sys2Proof/WellFormed.lean ====
section
/-! DEFINITION. Well-formedness. A command carries no operand (R91), so nothing about an `Instr` can be ill
formed; what can be is the command WORD: its reserved bits (MBZ) and its opcode (R90, R93). -/

namespace Sys2Proof

/-- The fields of the one command format (R90). -/
structure CmdFields where
  /-- bits 31:4, must be zero -/
  mbz : BitVec 28
  /-- bits 3:0, the opcode -/
  op  : BitVec 4
  deriving DecidableEq, Repr

/-- Check 1: "bits 31:4 ... must be zero" (R90, R93). -/
def CmdFields.mbzClear (f : CmdFields) : Bool := f.mbz == 0

/-- Check 2: the opcode is none of the reserved 0xB .. 0xF (R92, R93). -/
def CmdFields.opDefined (f : CmdFields) : Bool := f.op.toNat < 11

/-- A command word is well formed when both checks pass; it is then legal (R93). -/
def CmdFields.wf (f : CmdFields) : Bool := f.mbzClear && f.opDefined

/-- Every command is well formed: there is no operand to check (R91). -/
def Instr.wf (_ : Instr) : Bool := true

end Sys2Proof
end

