-- ==== Sys2Proof/Decode.lean ====
section
/-! DEFINITION. Decoding a command word, total on any 32-bit word and rejecting by name, and the encoder after
it (R90, R92, R93, R100). A command is always one 32-bit word (R94), written whole to CMD. -/

namespace Sys2Proof

/-- Why a command word is illegal (R93). -/
inductive DecodeError where
  /-- a bit of 31:4 is 1 -/
  | reservedBitsSet (mbz : BitVec 28)
  /-- OP is one of 0xB .. 0xF -/
  | reservedOpcode (op : BitVec 4)
  deriving DecidableEq, Repr

/-- The two fields of a command word (R90). -/
def CmdFields.ofWord (w : Word) : CmdFields where
  mbz := w.extractLsb' 4 28
  op  := w.extractLsb' 0 4

/-- The command word made of two fields (R90). -/
def CmdFields.toWord (f : CmdFields) : Word := f.mbz ++ f.op

/-- The opcode map, read from the opcode (R92). -/
def opcodeInstr : BitVec 4 → Option Instr
  | 0x0 => some .nop
  | 0x1 => some .pack
  | 0x2 => some .unpack
  | 0x3 => some .genchk
  | 0x4 => some .verify
  | 0x5 => some .flag
  | 0x6 => some .unflag
  | 0x7 => some .repair
  | 0x8 => some .decode
  | 0x9 => some .encode
  | 0xA => some .srst
  | _   => none

/-- Decodes a command word; every word is one command or illegal (R93, R100). -/
def decode (w : Word) : Except DecodeError Instr :=
  let f := CmdFields.ofWord w
  if f.mbz = 0 then
    match opcodeInstr f.op with
    | some i => .ok i
    | none   => .error (.reservedOpcode f.op)
  else
    .error (.reservedBitsSet f.mbz)

/-- The opcode map, read from the command (R92). -/
def Instr.opcode : Instr → BitVec 4
  | .nop    => 0x0
  | .pack   => 0x1
  | .unpack => 0x2
  | .genchk => 0x3
  | .verify => 0x4
  | .flag   => 0x5
  | .unflag => 0x6
  | .repair => 0x7
  | .decode => 0x8
  | .encode => 0x9
  | .srst   => 0xA

/-- "The CMD word that selects an opcode is `zext_32(OP)`" (R92). -/
def encode (i : Instr) : Word := i.opcode.setWidth 32

/-- The table's view of the decoder: the command that the low `nbits` bits of `w` select, the bits above them
being 0. A command is one word, so its bits are numbered as the table numbers them. -/
def decodeTableWord (nbits w : Nat) : Option Instr :=
  (decode (BitVec.ofNat 32 (w % 2 ^ nbits))).toOption

end Sys2Proof
end

