-- ==== Sys2Proof/Machine/State.lean ====
section
/-! DEFINITION. The state of SEEDCODEC as plain data: the record of R39, the reset input of R280, and the
model's own two interface fields (the moves still to come, and the values reads have returned). -/

namespace Sys2Proof.Machine

/-- The registers of the window's map (R61). -/
inductive Reg where
  | id | cmd | status | ctrl | iclr | coin | nwords | ermask | eridx | repl | rsv | bday
  /-- KEY0 .. KEY3 -/
  | key (n : Fin 4)
  /-- SYM0 .. SYM13 -/
  | sym (p : Fin 14)
  deriving DecidableEq, Repr

/-- One Host access to the window, as it reaches the block's port (R62, R77, R78). `bits` is its width. -/
inductive Access where
  | read (off : Offset) (bits : Nat)
  | write (off : Offset) (bits : Nat) (value : Word)
  deriving DecidableEq, Repr

/-- What can happen next at the block: "a single interleaving of Host accesses and Engine completions" (R70),
and the reset input (R280). -/
inductive Move where
  /-- the port serves one Host access -/
  | access (a : Access)
  /-- the Engine takes its completion step, if it is BUSY (R251) -/
  | engine
  /-- the reset input becomes asserted (true) or released (false) -/
  | reset (asserted : Bool)
  deriving DecidableEq, Repr

/-- PHASE and OP: OP is the opcode of the command in progress, "meaningful only when PHASE = BUSY" (R34, R39). -/
inductive Phase where
  | idle
  | busy (op : BitVec 4)
  deriving DecidableEq, Repr

/-- The fields of STATUS (R30, R39). Bits 31:14 are reserved and read 0: they have no storage. -/
structure Status where
  busy     : Bool
  done     : Bool
  valid    : Bool
  usable   : Bool
  /-- the parse outcome code of R31; 7 is never written -/
  pstate   : BitVec 3
  err      : Bool
  /-- the error code of R241; 6..15 are never written -/
  errcode  : BitVec 4
  errmulti : Bool
  erasure  : Bool
  deriving DecidableEq, Repr

/-- STATUS at reset: 0x00000000 (R37). -/
def Status.reset : Status where
  busy := false
  done := false
  valid := false
  usable := false
  pstate := 0
  err := false
  errcode := 0
  errmulti := false
  erasure := false

/-- The state of the block. -/
structure State where
  /-- SYM[0..13], 14 registers of 11 bits (R21, R22) -/
  sym    : Codeword
  /-- RSV, 5 bits (R23) -/
  rsv    : BitVec 5
  /-- BDAY, 10 bits (R23) -/
  bday   : BitVec 10
  /-- KEY, 128 bits, seen as KEY0..KEY3 (R23, R67) -/
  key    : BitVec 128
  /-- COIN, 11 bits (R24) -/
  coin   : Sym11
  /-- NWORDS, 16 bits (R25) -/
  nwords : BitVec 16
  /-- ERMASK, 14 bits (R26) -/
  ermask : BitVec 14
  /-- ERIDX, 4 bits (R27) -/
  eridx  : BitVec 4
  /-- REPL, 11 bits (R28) -/
  repl   : Sym11
  /-- CTRL.IE (R29) -/
  ie     : Bool
  /-- STATUS (R30); its BUSY field and `phase` are both in R39's record -/
  status : Status
  /-- PHASE and OP (R34) -/
  phase  : Phase
  /-- the reset input: asserted or not (R280) -/
  resetLine : Bool
  /-- MODEL'S OWN: the moves still to come, the next one first (notes/assumptions/5.md) -/
  moves   : List Move
  /-- MODEL'S OWN: the values the Host's reads have returned, the latest first (notes/assumptions/6.md) -/
  replies : List Word
  deriving DecidableEq, Repr

/-- The state after the hardware reset of R280: R37's values, the input released, nothing yet to come. -/
def State.reset : State where
  sym := Vector.replicate 14 0
  rsv := 0
  bday := 0
  key := 0
  coin := 0
  nwords := 0
  ermask := 0
  eridx := 0
  repl := 0
  ie := false
  status := Status.reset
  phase := .idle
  resetLine := false
  moves := []
  replies := []

/-- Why the machine stops. The block itself "never halts, hangs or becomes stuck" (R295). -/
inductive Fault where
  /-- Raised by `step` alone, where PHASE is BUSY with an opcode the opcode map reserves. Only legal commands
  enter BUSY (R251), so no run reaches it (notes/assumptions/7.md). Safe. -/
  | reservedOpcodeLatched (op : BitVec 4)
  deriving DecidableEq, Repr

/-- Why an instruction has no meaning here. -/
inductive Refusal where
  /-- Raised by `exec`'s arm of a command not modelled yet; no arm does. Safe. -/
  | notModelled (mnemonic : String)
  deriving DecidableEq, Repr

/-! Updates, one per home of state; their field lemmas are in Sys2Proof/Laws/State.lean. -/

/-- SYM[0..13] <- c -/
def State.setSym (s : State) (c : Codeword) : State := { s with sym := c }
/-- RSV, BDAY, KEY <- r, b, k -/
def State.setSeed (s : State) (r : BitVec 5) (b : BitVec 10) (k : BitVec 128) : State :=
  { s with rsv := r, bday := b, key := k }
/-- COIN <- v -/
def State.setCoin (s : State) (v : Sym11) : State := { s with coin := v }
/-- NWORDS <- v -/
def State.setNwords (s : State) (v : BitVec 16) : State := { s with nwords := v }
/-- ERMASK <- v -/
def State.setErmask (s : State) (v : BitVec 14) : State := { s with ermask := v }
/-- ERIDX <- v -/
def State.setEridx (s : State) (v : BitVec 4) : State := { s with eridx := v }
/-- REPL <- v -/
def State.setRepl (s : State) (v : Sym11) : State := { s with repl := v }
/-- CTRL.IE <- v -/
def State.setIe (s : State) (v : Bool) : State := { s with ie := v }
/-- STATUS <- v -/
def State.setStatus (s : State) (v : Status) : State := { s with status := v }
/-- PHASE <- v -/
def State.setPhase (s : State) (v : Phase) : State := { s with phase := v }
/-- the reset input <- v -/
def State.setResetLine (s : State) (v : Bool) : State := { s with resetLine := v }
/-- the moves still to come <- m -/
def State.setMoves (s : State) (m : List Move) : State := { s with moves := m }
/-- one more value returned to the Host -/
def State.pushReply (s : State) (v : Word) : State := { s with replies := v :: s.replies }

end Sys2Proof.Machine
end

