-- ==== Sys2Proof/Machine/Field.lean ====
section
/-! DEFINITION. The functions the commands call: arithmetic in GF(2048), the evaluation of a codeword, the place of
the check symbol, the repair search and its closed form, the flag transform (R120 to R129, R162 to R164, R190, R191).
The code parameters of R7 are each function's last argument; the block's own values are its default. -/

namespace Sys2Proof.Machine

/-- `a ⊕ b`, addition in GF(2048) (R14, R121). -/
def gfAdd (a b : Sym11) : Sym11 := a ^^^ b

/-- `x^11` reduced: the reduction polynomial without its leading term, `x^2 + 1 = 5` in this block (R122). -/
def gfReduction (code : CodeParams := Config.code) : Sym11 := code.gfPoly.setWidth 11

/-- Multiplication by `x` (R122). -/
def mul2 (a : Sym11) (code : CodeParams := Config.code) : Sym11 :=
  if a < 1024#11 then 2 * a else gfAdd (2 * a) (gfReduction code)

/-- `a ⊗ b`, the carry-less product reduced, by the loop of R123. -/
def gfMul (a b : Sym11) (code : CodeParams := Config.code) : Sym11 :=
  [10, 9, 8, 7, 6, 5, 4, 3, 2, 1, 0].foldl
    (fun r k => if b.getLsbD k then gfAdd (mul2 r code) a else mul2 r code) 0

/-- `a` to the power `n` under `⊗`. -/
def gfPow (a : Sym11) (n : Nat) (code : CodeParams := Config.code) : Sym11 :=
  match n with
  | 0     => 1
  | n + 1 => gfMul (gfPow a n code) a code

/-- "Every nonzero element has an inverse, a^−1 = a^2046" (R124): the product of `a^2, a^4, ..., a^1024`. The pair
holds the square reached and the product so far. -/
def gfInv (a : Sym11) (code : CodeParams := Config.code) : Sym11 :=
  ((List.range 10).foldl
    (fun x _ => (gfMul x.1 x.1 code, gfMul x.2 (gfMul x.1 x.1 code) code)) (a, (1 : Sym11))).2

/-- Multiplication by ALPHA: R122's `mul2` where ALPHA is `x`, as in this block. -/
def mulAlpha (a : Sym11) (code : CodeParams := Config.code) : Sym11 :=
  if code.alpha = 2 then mul2 a code else gfMul a code.alpha code

/-- The power of ALPHA that text position `p` is multiplied with in the evaluation: `α^(13−p)` in this block (R125). -/
def positionWeight (p : Fin 14) (code : CodeParams := Config.code) : Sym11 :=
  gfPow code.alpha (code.coeffOrder.exponent p) code

/-- `horner`, the evaluation of a codeword-domain vector at `x = α` by the loop of R125. -/
def horner (w : Codeword) (code : CodeParams := Config.code) : Sym11 :=
  (code.coeffOrder.fromHighest w).foldl (fun r v => gfAdd (mulAlpha r code) v) 0

/-- `⊕_p c[p] ⊗ α^(13−p)`: what R125 says `horner` equals, written as the sum. -/
def codewordSum (w : Codeword) (code : CodeParams := Config.code) : Sym11 :=
  (List.finRange 14).foldl (fun r p => gfAdd r (gfMul (w.get p) (positionWeight p code) code)) 0

/-- "A codeword-domain vector c is valid iff horner(c) = 0" (R126). -/
def isValid (w : Codeword) (code : CodeParams := Config.code) : Bool := horner w code == 0

/-- The 14 symbols in text order: the check symbol `x` at CHECK_POS, the payload symbols in order at the other
positions (R22, R97). -/
def codewordOf (v : PayloadSyms) (x : Sym11) (code : CodeParams := Config.code) : Codeword :=
  Vector.ofFn (Fin.insertNth (α := fun _ => Sym11) code.checkPos x v.get)

/-- The payload symbols `s_0 .. s_12` of a vector: all positions but CHECK_POS, in order (R22, R97). -/
def payloadPart (w : Codeword) (code : CodeParams := Config.code) : PayloadSyms :=
  Vector.ofFn fun j => w.get (code.checkPos.succAbove j)

/-- The value at position `p` whose share of the evaluation is `r`: `r ⊗ (α^(13−p))^−1` (R164). -/
def unscale (r : Sym11) (p : Fin 14) (code : CodeParams := Config.code) : Sym11 :=
  gfMul r (gfInv (positionWeight p code) code) code

/-- The check symbol of 13 payload symbols: `horner(s[0], ..., s[12], 0)` (R127), the check position's power of ALPHA
being `α^0 = 1` in this block. -/
def checksym (v : PayloadSyms) (code : CodeParams := Config.code) : Sym11 :=
  unscale (horner (codewordOf v 0 code) code) code.checkPos code

/-- `add11(a, b) = (a + b) mod 2048` (R129). -/
def add11 (a b : Sym11) : Sym11 := a + b

/-- `sub11(a, b) = (a − b + 2048) mod 2048` (R129). -/
def sub11 (a b : Sym11) : Sym11 := a - b

/-- The format direction of the flag transform on one symbol (R7, R190). -/
def flagSym (v coin : Sym11) (code : CodeParams := Config.code) : Sym11 :=
  match code.flagOp with
  | .modularOffset => sub11 v coin
  | .exclusiveOr   => v ^^^ coin

/-- The parse direction of the flag transform on one symbol (R7, R191). -/
def unflagSym (v coin : Sym11) (code : CodeParams := Config.code) : Sym11 :=
  match code.flagOp with
  | .modularOffset => add11 v coin
  | .exclusiveOr   => v ^^^ coin

/-- FLAG's transform of a whole vector: position FLAG_POS = 1 alone (R190). -/
def flagWord (w : Codeword) (coin : Sym11) (code : CodeParams := Config.code) : Codeword :=
  w.set code.flagPos (flagSym (w.get code.flagPos) coin code)

/-- UNFLAG's transform of a whole vector: position FLAG_POS = 1 alone (R191, R195). -/
def unflagWord (w : Codeword) (coin : Sym11) (code : CodeParams := Config.code) : Codeword :=
  w.set code.flagPos (unflagSym (w.get code.flagPos) coin code)

/-- The candidate values of a repair, 0, 1, ..., 2047 in that order (R163). -/
def candidates : List Sym11 := (List.range 2048).map (BitVec.ofNat 11)

/-- The repair search: the first candidate that makes the codeword valid with position `p` replaced by it
(R162, R163, R196). -/
def firstValid (w : Codeword) (p : Fin 14) (code : CodeParams := Config.code) : Option Sym11 :=
  candidates.find? fun v => isValid (w.set p v) code

/-- The closed form of the repaired value (R164). No command uses it. -/
def repairValue (w : Codeword) (p : Fin 14) (code : CodeParams := Config.code) : Sym11 :=
  unscale (horner (w.set p 0) code) p code

end Sys2Proof.Machine
end

