-- ==== Sys2Proof/Machine/Flags.lean ====
section
/-! DEFINITION. STATUS: its word, the outcome and error codes, and every way its fields change
(R30, R31, R241, R243, R250, R251), with the irq line (R36, R248). -/

namespace Sys2Proof.Machine

/-- The error codes of R241. -/
inductive ErrCode where
  | illegalCmd
  | busyWrite
  | badEridx
  | selfchk
  | badAccess
  deriving DecidableEq, Repr

/-- ERRCODE's value (R241). -/
def errCode : ErrCode → BitVec 4
  | .illegalCmd => 1
  | .busyWrite  => 2
  | .badEridx   => 3
  | .selfchk    => 4
  | .badAccess  => 5

/-- The six outcome states of a parse (R31). -/
inductive ParseOutcome where
  | notEnoughWords
  | tooManyWords
  | tooManyUnrecognizedWords
  | repaired
  | specifiedValid
  | checksumFailed
  deriving DecidableEq, Repr

/-- PSTATE's value (R31). Code 0 is NONE, which no command but SRST writes. -/
def outcomeCode : ParseOutcome → BitVec 3
  | .notEnoughWords           => 1
  | .tooManyWords             => 2
  | .tooManyUnrecognizedWords => 3
  | .repaired                 => 4
  | .specifiedValid           => 5
  | .checksumFailed           => 6

/-- STATUS as the Host reads it (R30): bits 31:14 read 0. -/
def statusWord (t : Status) : Word :=
  0#18 ++ BitVec.ofBool t.erasure ++ BitVec.ofBool t.errmulti ++ t.errcode ++ BitVec.ofBool t.err ++
    t.pstate ++ BitVec.ofBool t.usable ++ BitVec.ofBool t.valid ++ BitVec.ofBool t.done ++
    BitVec.ofBool t.busy

/-- RaiseError(e) on the record: the first code is kept, a later error sets ERRMULTI (R243, R245). -/
def raiseRecord (e : ErrCode) (t : Status) : Status :=
  if t.err then { t with errmulti := true } else { t with err := true, errcode := errCode e }

/-- The effect of a write of `v` to ICLR (R250). -/
def clearRecord (v : Word) (t : Status) : Status :=
  let t1 := if v.getLsbD 0 then { t with done := false } else t
  if v.getLsbD 1 then { t1 with err := false, errcode := 0, errmulti := false } else t1

/-- Issue of a legal command: DONE <- 0, BUSY <- 1 (R251). -/
def issuedRecord (t : Status) : Status := { t with done := false, busy := true }

/-- Completion: BUSY <- 0, DONE <- 1 (R251). -/
def completedRecord (t : Status) : Status := { t with busy := false, done := true }

/-- The validity result of VERIFY, REPAIR and ENCODE (R30, D29). -/
def validRecord (ok : Bool) (t : Status) : Status := { t with valid := ok }

/-- DECODE's four fields (R192). -/
def outcomeRecord (o : ParseOutcome) (ok erased : Bool) (t : Status) : Status :=
  { t with valid := ok, usable := ok, pstate := outcomeCode o, erasure := erased }

/-- `irq = CTRL.IE & (STATUS.DONE | STATUS.ERR)`: a level, not a stored bit (R36, R248). -/
def irq (s : State) : Bool := s.ie && (s.status.done || s.status.err)

end Sys2Proof.Machine
end

