-- ==== Sys2Proof/Machine/Operands.lean ====
section
/-! DEFINITION. The operands: the register map with its offsets, widths and access kinds (R61), what a register
reads and how a write stores (R65, R67), the payload layout (R95, R96), the erasure mask (R26), and the platform's
side of an address (R13, R60, R66). -/

namespace Sys2Proof.Machine

/-- The access column of R61's table. -/
inductive RegAccess where
  | readOnly
  | writeOnly
  | readWrite
  deriving DecidableEq, Repr

/-- The registers in offset order. -/
def regAll : List Reg :=
  [.id, .cmd, .status, .ctrl, .iclr, .coin, .nwords, .ermask, .eridx, .repl, .rsv, .bday] ++
    (List.finRange 4).map .key ++ (List.finRange 14).map .sym

/-- The offset column of R61's table. -/
def regOffset : Reg → Offset
  | .id     => 0x000
  | .cmd    => 0x004
  | .status => 0x008
  | .ctrl   => 0x00C
  | .iclr   => 0x010
  | .coin   => 0x014
  | .nwords => 0x018
  | .ermask => 0x01C
  | .eridx  => 0x020
  | .repl   => 0x024
  | .rsv    => 0x028
  | .bday   => 0x02C
  | .key n  => 0x030 + 4 * BitVec.ofNat 12 n
  | .sym p  => 0x040 + 4 * BitVec.ofNat 12 p

/-- The access column of R61's table. -/
def regAccess : Reg → RegAccess
  | .id     => .readOnly
  | .cmd    => .writeOnly
  | .status => .readOnly
  | .ctrl   => .readWrite
  | .iclr   => .writeOnly
  | .coin   => .readWrite
  | .nwords => .readWrite
  | .ermask => .readWrite
  | .eridx  => .readWrite
  | .repl   => .readOnly
  | .rsv    => .readWrite
  | .bday   => .readWrite
  | .key _  => .readWrite
  | .sym _  => .readWrite

/-- The width column of R61's table: the number of implemented low bits; COIN's is COIN_BITS (R7, R24). -/
def regWidth (r : Reg) (code : CodeParams := Config.code) : Nat :=
  match r with
  | .id     => 32
  | .cmd    => 32
  | .status => 14
  | .ctrl   => 1
  | .iclr   => 2
  | .coin   => code.coinBits
  | .nwords => 16
  | .ermask => 14
  | .eridx  => 4
  | .repl   => 11
  | .rsv    => 5
  | .bday   => 10
  | .key _  => 32
  | .sym _  => 11

/-- The register at an offset; none where the map has none, which for an aligned offset is 0x078 .. 0xFFC
(R61, R63). -/
def regAt (off : Offset) : Option Reg := regAll.find? fun r => regOffset r == off

/-- ID's constant (R33). -/
def idValue : Word := 0x010B0E01

/-- KEYn, the most significant word first: KEY0 = KEY[127:96] .. KEY3 = KEY[31:0] (R67). -/
def keyWord (k : BitVec 128) (n : Fin 4) : Word := k.extractLsb' (96 - 32 * n.val) 32

/-- KEY with KEYn replaced (R67). -/
def setKeyWord (k : BitVec 128) (n : Fin 4) (v : Word) : BitVec 128 :=
  match n with
  | 0 => v ++ keyWord k 1 ++ keyWord k 2 ++ keyWord k 3
  | 1 => keyWord k 0 ++ v ++ keyWord k 2 ++ keyWord k 3
  | 2 => keyWord k 0 ++ keyWord k 1 ++ v ++ keyWord k 3
  | 3 => keyWord k 0 ++ keyWord k 1 ++ keyWord k 2 ++ v

/-- Byte b of "16-byte big-endian `keySeed`": KEY[127 − 8b : 120 − 8b] (R67). -/
def keyByte (k : BitVec 128) (b : Fin 16) : BitVec 8 := k.extractLsb' (120 - 8 * b.val) 8

/-- The word a Host makes of four bytes of the key-seed buffer, the first most significant (R67). -/
def keyWordOfBytes (b0 b1 b2 b3 : BitVec 8) : Word := b0 ++ b1 ++ b2 ++ b3

/-- What the Host reads from a register: its implemented bits, zero-extended; a write-only register reads 0
(R64, R65, R77). -/
def regValue (s : State) : Reg → Word
  | .id     => idValue
  | .cmd    => 0
  | .status => statusWord s.status
  | .ctrl   => (BitVec.ofBool s.ie).setWidth 32
  | .iclr   => 0
  | .coin   => s.coin.setWidth 32
  | .nwords => s.nwords.setWidth 32
  | .ermask => s.ermask.setWidth 32
  | .eridx  => s.eridx.setWidth 32
  | .repl   => s.repl.setWidth 32
  | .rsv    => s.rsv.setWidth 32
  | .bday   => s.bday.setWidth 32
  | .key n  => keyWord s.key n
  | .sym p  => (s.sym.get p).setWidth 32

/-- A write of `v` to a read-write register of width w stores `v[w−1:0]` (R65); COIN's w is COIN_BITS (R7, R24). The
other registers hold nothing that a plain store reaches (R64, R68). -/
def regStore (s : State) (v : Word) (r : Reg) (code : CodeParams := Config.code) : State :=
  match r with
  | .ctrl   => s.setIe (v.getLsbD 0)
  | .coin   => s.setCoin ((v.setWidth (regWidth .coin code)).setWidth 11)
  | .nwords => s.setNwords (v.setWidth 16)
  | .ermask => s.setErmask (v.setWidth 14)
  | .eridx  => s.setEridx (v.setWidth 4)
  | .rsv    => s.setSeed (v.setWidth 5) s.bday s.key
  | .bday   => s.setSeed s.rsv (v.setWidth 10) s.key
  | .key n  => s.setSeed s.rsv s.bday (setKeyWord s.key n v)
  | .sym p  => s.setSym (s.sym.set p (v.setWidth 11))
  | .id     => s
  | .cmd    => s
  | .status => s
  | .iclr   => s
  | .repl   => s

/-- The payload `P = RSV ‖ BDAY ‖ KEY` (R95). -/
def payload (r : BitVec 5) (b : BitVec 10) (k : BitVec 128) : Payload := r ++ b ++ k

/-- `s_j = P[142 − 11j : 132 − 11j]` (R96, R140). -/
def packSyms (p : Payload) : PayloadSyms := Vector.ofFn fun j => p.extractLsb' (132 - 11 * j.val) 11

/-- `s_0 ‖ s_1 ‖ ... ‖ s_12` (R141); the check symbol is ignored. -/
def unpackSyms (w : PayloadSyms) : Payload :=
  w[0] ++ w[1] ++ w[2] ++ w[3] ++ w[4] ++ w[5] ++ w[6] ++ w[7] ++ w[8] ++ w[9] ++ w[10] ++ w[11] ++ w[12]

/-- RSV = P[142:138] (R95, R141). -/
def payloadRsv (p : Payload) : BitVec 5 := p.extractLsb' 138 5
/-- BDAY = P[137:128] (R95, R141). -/
def payloadBday (p : Payload) : BitVec 10 := p.extractLsb' 128 10
/-- KEY = P[127:0] (R95, R141). -/
def payloadKey (p : Payload) : BitVec 128 := p.extractLsb' 0 128

/-- The text positions ERMASK marks as erasures, in ascending order (R26). Their number is popcount(ERMASK) and,
when there is exactly one, its head is the index of the single 1 bit (R192). -/
def erasures (m : BitVec 14) : List (Fin 14) := (List.finRange 14).filter fun p => m.getLsbD p

/-- REPAIR's input position: ERIDX where it is legal, 0..13 (R27, R162). -/
def eridxPos (e : BitVec 4) : Option (Fin 14) := if h : e.toNat < 14 then some ⟨e.toNat, h⟩ else none

/-- "The only supported access is a 32-bit access at an offset that is a multiple of 4" (R62). -/
def supported (off : Offset) (bits : Nat) : Bool := bits == 32 && off.toNat % 4 == 0

/-- The offset of a bus address that lies in the window BASE .. BASE + 0xFFF (R60). -/
def busOffset (addr : Nat) : Option Offset :=
  if Config.base ≤ addr ∧ addr < Config.base + 4096 then some (BitVec.ofNat 12 (addr - Config.base)) else none

/-- `MemRead(addr, bytes)`: the access that reaches the block, if the address is in its window (R13). -/
def memRead (addr bytes : Nat) : Option Access := (busOffset addr).map fun off => .read off (8 * bytes)

/-- `MemWrite(addr, bytes, v)`: the access that reaches the block, if the address is in its window (R13). -/
def memWrite (addr bytes : Nat) (v : Word) : Option Access :=
  (busOffset addr).map fun off => .write off (8 * bytes) v

/-- What byte address BASE + off + i of a byte-addressed bus carries of the register's value `v`, under the platform's
lane convention `order` (R66, I9): bits [8i+7:8i] in the default, little-endian lanes; the lanes in reverse in
big-endian ones (notes/assumptions/4.md). -/
def byteLane (v : Word) (i : Fin 4) (order : ByteOrder := Config.byteOrder) : BitVec 8 :=
  match order with
  | .little => v.extractLsb' (8 * i.val) 8
  | .big    => v.extractLsb' (24 - 8 * i.val) 8

end Sys2Proof.Machine
end

