-- ==== Sys2Proof/Machine/Ops.lean ====
section
/-! DEFINITION. The shared operations over the state: raising an error and clearing its record, issue and
completion, the Host's register reads and writes, the reset input. -/

namespace Sys2Proof.Machine

/-! ### Error entry and return -/

/-- RaiseError(e): the one operation by which every error is taken (R243). It writes ERR, ERRCODE and ERRMULTI
alone; nothing is saved and control goes nowhere. -/
def raiseError (e : ErrCode) (s : State) : State := s.setStatus (raiseRecord e s.status)

/-- The completion of a command: BUSY <- 0, DONE <- 1, PHASE <- IDLE (R251). -/
def complete (s : State) : State := (s.setStatus (completedRecord s.status)).setPhase .idle

/-- A command error ends the command: "all its staged writes are discarded" and it completes (R243, R244). -/
def commandError (e : ErrCode) (s : State) : State := complete (raiseError e s)

/-- An access error leaves everything but the error record unchanged (R243). -/
def accessError (e : ErrCode) (s : State) : State := raiseError e s

/-- A write of `v` to ICLR, the Host's "return" from an error (R245, R250). -/
def writeIclr (v : Word) (s : State) : State := s.setStatus (clearRecord v s.status)

/-! ### Issue -/

/-- Issue of the legal command with opcode `op`: DONE <- 0, BUSY <- 1, PHASE <- BUSY(op) (R251). -/
def issueLegal (op : BitVec 4) (s : State) : State := (s.setStatus (issuedRecord s.status)).setPhase (.busy op)

/-- Issue of an illegal word: DONE <- 0, RaiseError(ILLEGAL_CMD), DONE <- 1; PHASE stays IDLE (R93, R251). -/
def issueIllegal (s : State) : State :=
  s.setStatus { raiseRecord .illegalCmd { s.status with done := false } with done := true }

/-- A write of `w` to CMD while IDLE (R251). -/
def issue (w : Word) (s : State) : State :=
  match decode w with
  | .ok i    => issueLegal i.opcode s
  | .error _ => issueIllegal s

/-! ### The Host's accesses -/

/-- RegRead(off): the value returned and the state after (R77). -/
def regRead (off : Offset) (bits : Nat) (s : State) : Word × State :=
  if supported off bits then
    match regAt off with
    | some r => (regValue s r, s)
    | none   => (0, s)
  else
    (0, accessError .badAccess s)

/-- RegWrite(off, v), its cases in the order of R78 and R246. -/
def regWrite (off : Offset) (bits : Nat) (v : Word) (s : State) : State :=
  if supported off bits then
    match regAt off with
    | none   => s
    | some r =>
      if regAccess r = .readOnly then s
      else if r = .iclr then writeIclr v s
      else
        match s.phase with
        | .busy _ => accessError .busyWrite s
        | .idle   => if r = .cmd then issue v s else regStore s v r
  else
    accessError .badAccess s

/-- The port serves one access. While the reset input is asserted, "Host accesses are ignored: writes store
nothing and reads return 0" (R280). -/
def serve (a : Access) (s : State) : State :=
  match a with
  | .read off bits =>
    if s.resetLine then s.pushReply 0
    else (regRead off bits s).2.pushReply (regRead off bits s).1
  | .write off bits v =>
    if s.resetLine then s else regWrite off bits v s

/-! ### Reset -/

/-- "every register takes its reset value", PHASE becomes IDLE and a command in progress is abandoned (R280, R37).
The model's own fields and the input itself are as they were. -/
def resetRegisters (s : State) : State :=
  { State.reset with resetLine := s.resetLine, moves := s.moves, replies := s.replies }

/-- The reset input becomes asserted or released (R280). -/
def driveReset (asserted : Bool) (s : State) : State :=
  if asserted then (resetRegisters s).setResetLine true else s.setResetLine false

/-! ### What the block does next -/

/-- What one step is about. -/
inductive Work where
  /-- nothing to do: the block waits for a Host access (R281, R295) -/
  | wait
  /-- the Engine's completion step of the command latched in OP -/
  | command (i : Instr)
  /-- OP holds a reserved opcode -/
  | reservedOp (op : BitVec 4)
  | access (a : Access)
  | reset (asserted : Bool)
  deriving DecidableEq, Repr

/-- The Engine's turn: the completion step of the command in progress, if there is one; none while the reset
input is asserted (R251, R280). -/
def engineWork (s : State) : Work :=
  if s.resetLine then .wait
  else
    match s.phase with
    | .idle    => .wait
    | .busy op =>
      match decode (op.setWidth 32) with
      | .ok i    => .command i
      | .error _ => .reservedOp op

/-- Takes the next move off the list. When no move is left the Engine has the turn: "from BUSY, completion
follows" (R295). -/
def fetch (s : State) : Work × State :=
  match s.moves with
  | []                 => (engineWork s, s)
  | .engine :: rest    => (engineWork s, s.setMoves rest)
  | .access a :: rest  => (.access a, s.setMoves rest)
  | .reset b :: rest   => (.reset b, s.setMoves rest)

/-- Gives the Engine the next turn (it has it where no move is to come). -/
def engineFirst : List Move → List Move
  | [] => []
  | ms => .engine :: ms

/-- A legal command latched as its issue leaves it, with the Engine's turn next; an illegal word as a CMD write
to the idle block, served next (notes/assumptions/8.md). -/
def latchWord (w : Word) (s : State) : State :=
  match decode w with
  | .ok i    => (issueLegal i.opcode (s.setResetLine false)).setMoves (engineFirst s.moves)
  | .error _ =>
    (((s.setResetLine false).setPhase .idle).setStatus { s.status with busy := false }).setMoves
      (.access (.write (regOffset .cmd) 32 w) :: s.moves)

end Sys2Proof.Machine
end

