-- ==== Sys2Proof/Machine/Checksum.lean ====
section
/-! DEFINITION. The checksum commands GENCHK, VERIFY and REPAIR (42_checksum.md). All work in the codeword
domain. -/

namespace Sys2Proof.Machine

/-- GENCHK's staged write (R160). -/
def genchkStage (s : State) (code : CodeParams := Config.code) : State :=
  s.setSym (s.sym.set code.checkPos (checksym (payloadPart s.sym code) code))

/-- GENCHK (R160): SYM[13] <- checksym(SYM[0..12]). -/
def execGenchk (s : State) : Host.Outcome State Fault Refusal := .next (complete (genchkStage s))

/-- VERIFY's staged write (R161). -/
def verifyStage (s : State) (code : CodeParams := Config.code) : State :=
  s.setStatus (validRecord (isValid s.sym code) s.status)

/-- VERIFY (R161): STATUS.VALID <- (horner(SYM[0..13]) == 0). -/
def execVerify (s : State) : Host.Outcome State Fault Refusal := .next (complete (verifyStage s))

/-- REPAIR's staged writes from what the search found (R162). The branch without a candidate is the spec's own
and is never taken (R165). -/
def repairWith (p : Fin 14) (s : State) : Option Sym11 → State
  | some v => ((s.setSym (s.sym.set p v)).setRepl v).setStatus (validRecord true s.status)
  | none   => s.setStatus (validRecord false s.status)

/-- REPAIR's staged writes at a legal position (R162). -/
def repairAt (p : Fin 14) (s : State) (code : CodeParams := Config.code) : State :=
  repairWith p s (firstValid s.sym p code)

/-- REPAIR (R162): Error(BAD_ERIDX) where ERIDX is 14 or 15, else the search. -/
def execRepair (s : State) : Host.Outcome State Fault Refusal :=
  match eridxPos s.eridx with
  | none   => .next (commandError .badEridx s)
  | some p => .next (complete (repairAt p s))

end Sys2Proof.Machine
end

