-- ==== Sys2Proof/Machine/Control.lean ====
section
/-! DEFINITION. The control commands NOP and SRST (44_control.md). Each meaning is the Engine's completion step of
its command: it reads the operands, which have not changed since the issue (R72), and commits its staged writes
together (R286). -/

namespace Sys2Proof.Machine

/-- NOP (R230): no staged writes. -/
def execNop (s : State) : Host.Outcome State Fault Refusal := .next (complete s)

/-- SRST (R231): every register to its reset value, and DONE = 1 from its own completion. -/
def execSrst (s : State) : Host.Outcome State Fault Refusal := .next (complete (resetRegisters s))

end Sys2Proof.Machine
end

