-- ==== Sys2Proof/Machine/Packing.lean ====
section
/-! DEFINITION. The bit-packing commands PACK and UNPACK (41_packing.md). -/

namespace Sys2Proof.Machine

/-- PACK's staged write (R140): the payload symbols from RSV ‖ BDAY ‖ KEY; the check position keeps its value. -/
def packStage (s : State) (code : CodeParams := Config.code) : State :=
  s.setSym (codewordOf (packSyms (payload s.rsv s.bday s.key)) (s.sym.get code.checkPos) code)

/-- PACK (R140): SYM[0..12] from RSV ‖ BDAY ‖ KEY; SYM[13] keeps its value. -/
def execPack (s : State) : Host.Outcome State Fault Refusal := .next (complete (packStage s))

/-- The Seed fields of a codeword-domain vector (R141), also DECODE's last step (R199). -/
def unpackInto (w : Codeword) (s : State) (code : CodeParams := Config.code) : State :=
  let p := unpackSyms (payloadPart w code)
  s.setSeed (payloadRsv p) (payloadBday p) (payloadKey p)

/-- UNPACK (R141): RSV, BDAY and KEY from SYM[0..12]. -/
def execUnpack (s : State) : Host.Outcome State Fault Refusal := .next (complete (unpackInto s.sym s))

end Sys2Proof.Machine
end

