-- ==== Sys2Proof/Machine/ParseFormat.lean ====
section
/-! DEFINITION. The flag commands, the parse classification and the format path (43_parse_format.md). -/

namespace Sys2Proof.Machine

/-- FLAG's staged write (R190). -/
def flagStage (s : State) (code : CodeParams := Config.code) : State := s.setSym (flagWord s.sym s.coin code)

/-- FLAG (R190): SYM[1] <- sub11(SYM[1], COIN). -/
def execFlag (s : State) : Host.Outcome State Fault Refusal := .next (complete (flagStage s))

/-- UNFLAG's staged write (R191). -/
def unflagStage (s : State) (code : CodeParams := Config.code) : State := s.setSym (unflagWord s.sym s.coin code)

/-- UNFLAG (R191): SYM[1] <- add11(SYM[1], COIN). -/
def execUnflag (s : State) : Host.Outcome State Fault Refusal := .next (complete (unflagStage s))

/-- An outcome reached before the checksum stage: "no other register is written" (R193, R194). -/
def decodeStop (o : ParseOutcome) (s : State) : State := s.setStatus (outcomeRecord o false false s.status)

/-- The end of the checksum stage (R192, R199, R200): SYM holds the working codeword `w`, and the fields are
unpacked from it when the outcome is usable. `ok` is the re-evaluated validity of `w`. -/
def decodeCommit (good : ParseOutcome) (erased : Bool) (w : Codeword) (s : State)
    (code : CodeParams := Config.code) : State :=
  let ok := isValid w code
  let t := (s.setSym w).setStatus (outcomeRecord (if ok then good else .checksumFailed) ok erased s.status)
  if ok then unpackInto w t code else t

/-- What REPL receives: the replacement in the text domain (R197). -/
def replacement (p : Fin 14) (v coin : Sym11) (code : CodeParams := Config.code) : Sym11 :=
  if p = code.flagPos then flagSym v coin code else v

/-- The branch with exactly one erasure, at `p`, from what the search found (R196, R197). -/
def decodeErasedWith (p : Fin 14) (w : Codeword) (s : State) (found : Option Sym11)
    (code : CodeParams := Config.code) : State :=
  match found with
  | some v =>
    decodeCommit .repaired true (w.set p v)
      ((s.setEridx (BitVec.ofNat 4 p)).setRepl (replacement p v s.coin code)) code
  | none   => decodeCommit .repaired true w (s.setEridx (BitVec.ofNat 4 p)) code

/-- The branch with exactly one erasure, at `p` (R196, R197). -/
def decodeErased (p : Fin 14) (w : Codeword) (s : State) (code : CodeParams := Config.code) : State :=
  decodeErasedWith p w s (firstValid w p code) code

/-- The branch without an erasure (R198). -/
def decodePlain (w : Codeword) (s : State) (code : CodeParams := Config.code) : State :=
  decodeCommit .specifiedValid false w s code

/-- DECODE's staged writes, the outcomes in the order of R192 and R247. -/
def decodeStage (s : State) (code : CodeParams := Config.code) : State :=
  if s.nwords.toNat < 14 then decodeStop .notEnoughWords s
  else if s.nwords.toNat > 14 then decodeStop .tooManyWords s
  else
    match erasures s.ermask with
    | []          => decodePlain (unflagWord s.sym s.coin code) s code
    | [p]         => decodeErased p (unflagWord s.sym s.coin code) s code
    | _ :: _ :: _ => decodeStop .tooManyUnrecognizedWords s

/-- DECODE (R192). -/
def execDecode (s : State) : Host.Outcome State Fault Refusal := .next (complete (decodeStage s))

/-- The 14 text-domain symbols of the Seed fields under COIN: packed, checked, flagged (R201). -/
def formatWord (s : State) (code : CodeParams := Config.code) : Codeword :=
  let v := packSyms (payload s.rsv s.bday s.key)
  flagWord (codewordOf v (checksym v code) code) s.coin code

/-- ENCODE's self-check of the staged symbols: un-flagged, they are a valid codeword (R202). -/
def selfCheck (s : State) (code : CodeParams := Config.code) : Bool :=
  isValid (unflagWord (formatWord s code) s.coin code) code

/-- ENCODE's staged writes after a self-check that holds (R201). -/
def encodeStage (s : State) (code : CodeParams := Config.code) : State :=
  (s.setSym (formatWord s code)).setStatus (validRecord true s.status)

/-- ENCODE (R201): the self-check un-flags the staged symbols and requires them valid (R202). -/
def execEncode (s : State) : Host.Outcome State Fault Refusal :=
  if selfCheck s then .next (complete (encodeStage s)) else .next (commandError .selfchk s)

end Sys2Proof.Machine
end

