-- ==== Sys2Proof/Machine/Dispatch.lean ====
section
/-! DEFINITION. One arm per command. -/

namespace Sys2Proof.Machine

-- exec i s is the Engine's completion step of command i (R251).
def exec (i : Instr) (s : State) : Host.Outcome State Fault Refusal :=
  match i with
  | .nop => Sys2Proof.Machine.execNop s
  | .pack => Sys2Proof.Machine.execPack s
  | .unpack => Sys2Proof.Machine.execUnpack s
  | .genchk => Sys2Proof.Machine.execGenchk s
  | .verify => Sys2Proof.Machine.execVerify s
  | .flag => Sys2Proof.Machine.execFlag s
  | .unflag => Sys2Proof.Machine.execUnflag s
  | .repair => Sys2Proof.Machine.execRepair s
  | .decode => Sys2Proof.Machine.execDecode s
  | .encode => Sys2Proof.Machine.execEncode s
  | .srst => Sys2Proof.Machine.execSrst s

end Sys2Proof.Machine
end

