-- ==== Sys2Proof/Machine/Step.lean ====
section
/-! DEFINITION. One step: the next move of the single interleaving of R70, each in one piece. -/

namespace Sys2Proof.Machine

/-- One step of the machine. Where there is nothing to do the state stays as it is: IDLE waits for an access
(R281), and no state lacks a successor (R295). -/
def step (s : State) : Host.Outcome State Fault Refusal :=
  match (fetch s).1 with
  | .wait          => .next (fetch s).2
  | .command i     => exec i (fetch s).2
  | .reservedOp op => .fault (.reservedOpcodeLatched op)
  | .access a      => .next (serve a (fetch s).2)
  | .reset b       => .next (driveReset b (fetch s).2)

/-- `s` with the command word `w` placed where the next step takes its command from: the OP latch, as the issue
of `w` leaves it (R251), with the Engine's turn next (notes/assumptions/8.md). -/
def State.withFetchWord (s : State) (nbits w : Nat) : State :=
  latchWord (BitVec.ofNat 32 (w % 2 ^ nbits)) s

end Sys2Proof.Machine
end

