-- ==== Sys2Proof/Machine/HostProgram.lean ====
section
/-! DEFINITION. The Host's side: the statements of a Host program and the accesses they expand to (R98, R99), and
the Host's procedures of R284, R293 and R294 as far as they are accesses. The Host's own control flow and variables
are no part of the block. -/

namespace Sys2Proof.Machine

/-- The statements of a Host program (R98) and the pseudo-instructions (R99). `wait` carries the number of STATUS
reads that see DONE = 0 before the completion; any number is possible (R70, R290). -/
inductive Stmt where
  | wr (r : Reg) (v : Word)
  | rd (r : Reg)
  | cmd (i : Instr)
  | wait (polls : Nat)
  | run (i : Instr) (polls : Nat)
  | ldkey (k : BitVec 128)
  | ldsym (w : Codeword)
  | rdsym
  | clr
  deriving DecidableEq, Repr

/-- `wr REG, value` is RegWrite(offset of REG, value) (R98). -/
def wrMove (r : Reg) (v : Word) : Move := .access (.write (regOffset r) 32 v)

/-- `rd REG` is RegRead(offset of REG) (R98). -/
def rdMove (r : Reg) : Move := .access (.read (regOffset r) 32)

/-- `wait`: STATUS is read until DONE = 1 (R99); the completion comes after `polls` reads. -/
def waitMoves (polls : Nat) : List Move := List.replicate polls (rdMove .status) ++ [.engine, rdMove .status]

/-- The expansion of a statement (R98, R99). -/
def Stmt.expand : Stmt → List Move
  | .wr r v   => [wrMove r v]
  | .rd r     => [rdMove r]
  | .cmd i    => [wrMove .cmd (encode i)]
  | .wait n   => waitMoves n
  | .run i n  => wrMove .cmd (encode i) :: waitMoves n
  | .ldkey k  => (List.finRange 4).map fun n => wrMove (.key n) (keyWord k n)
  | .ldsym w  => (List.finRange 14).map fun p => wrMove (.sym p) ((w.get p).setWidth 32)
  | .rdsym    => (List.finRange 14).map fun p => rdMove (.sym p)
  | .clr      => [wrMove .iclr 3]

/-- The moves of a list of statements, in order. -/
def expandAll (ss : List Stmt) : List Move := ss.flatMap Stmt.expand

/-- The Host's initialisation after a reset or an SRST (R284). What R284 leaves to the Host is an argument, so that
every order and option it allows is a value of this function: `readId`, whether the optional step 1 is taken;
`interrupts`, whether step 3 is; `ctrlFirst`, whether steps 2 and 3 are swapped; `clearDone`, whether the Host, after
an SRST only, clears the DONE it left. DESIGN CHOICE: the arguments, and that a Host that reads ID ahead of the other
steps goes on whatever it reads (notes/assumptions/17.md). -/
def hostInit (coin : Word) (readId interrupts ctrlFirst clearDone : Bool) : List Stmt :=
  let step2 := [Stmt.wr .coin coin]
  let step3 := if interrupts then [Stmt.wr .ctrl 1] else []
  (if readId then [.rd .id] else []) ++ (if ctrlFirst then step3 ++ step2 else step2 ++ step3) ++
    (if clearDone then [.wr .iclr 1] else [])

/-- "write NWORDS = min(number of words, 65535)" (R25, R293). -/
def hostWordCount (n : Nat) : Word := BitVec.ofNat 32 (min n 65535)

/-- The erasure mask of the lookups of 14 words: bit p set where word p failed (R293). -/
def hostErasureMask (words : List (Option Sym11)) : Word :=
  (List.range 14).foldl
    (fun m p => if words[p]? = some none then m ||| (1#32 <<< p) else m) 0

/-- The writes of the symbols whose words were found (R293). -/
def hostSymbolWrites (words : List (Option Sym11)) : List Stmt :=
  (List.finRange 14).filterMap fun p =>
    (words[p.val]?.join).map fun v => Stmt.wr (.sym p) (v.setWidth 32)

/-- One parse, from the dictionary lookups of its words (none: the lookup failed) to the read of STATUS that
sees DONE = 1 (R293 steps 2 to 4). DESIGN CHOICE: the symbols before ERMASK, an order R293 leaves open
(notes/assumptions/17.md). -/
def hostParse (words : List (Option Sym11)) (polls : Nat) : List Stmt :=
  [.wr .nwords (hostWordCount words.length)] ++
    (if words.length = 14 then hostSymbolWrites words ++ [.wr .ermask (hostErasureMask words)] else []) ++
    [.run .decode polls]

/-- One format, up to the reads of the 14 symbols (R294). -/
def hostFormat (r : BitVec 5) (b : BitVec 10) (k : BitVec 128) (coin : Sym11) (polls : Nat) : List Stmt :=
  [.wr .rsv (r.setWidth 32), .wr .bday (b.setWidth 32), .ldkey k, .wr .coin (coin.setWidth 32),
    .run .encode polls, .rdsym]

end Sys2Proof.Machine
end

