-- ==== Sys2Proof/Safety.lean ====
section
/-! DEFINITION. What counts as a safe run: the invariant of the states a run reaches, a run that never stops, and
the Host's duties (R79, R293). -/

namespace Sys2Proof.Machine

/-- What holds in every state the block reaches. A clause names the rule it comes from. -/
structure State.Inv (s : State) : Prop where
  /-- "BUSY = 1 iff PHASE = BUSY" (R34) -/
  busy_iff : s.status.busy = true ↔ s.phase ≠ .idle
  /-- "While BUSY, DONE is already 0" (R250) -/
  busy_not_done : s.status.busy = true → s.status.done = false
  /-- only a legal command enters BUSY (R251) -/
  op_legal : ∀ op, s.phase = .busy op → op.toNat < 11
  /-- no error recorded: code 0 and no second error (R241, R243, R250) -/
  no_error : s.status.err = false → s.status.errcode = 0 ∧ s.status.errmulti = false
  /-- a recorded error has one of the codes 1..5 (R241) -/
  error_code : s.status.err = true → 1 ≤ s.status.errcode.toNat ∧ s.status.errcode.toNat ≤ 5
  /-- PSTATE 7 is never written (R31) -/
  pstate_defined : s.status.pstate ≠ 7
  /-- USABLE belongs to `repaired` and `specifiedValid` (R31) -/
  usable_iff : s.status.usable = true ↔ s.status.pstate = 4 ∨ s.status.pstate = 5
  /-- a parse with exactly one erasure ends as `repaired`, and no other does (R165, R192, R196) -/
  erasure_iff : s.status.erasure = true ↔ s.status.pstate = 4
  /-- while the reset input is asserted every register holds its reset value and PHASE is IDLE (R280) -/
  held_in_reset : s.resetLine = true → resetRegisters s = s

/-- A run that stops nowhere: every number of steps ends in a state. -/
def SafeRun (s : State) : Prop := ∀ k, ∃ t, Host.Core.run Sys2Proof.core k s = .next t

/-- The duties of R79 and R285 about one access: it is supported; while BUSY it is no write but to ICLR, a
read-only register or a reserved offset; and what it writes to CMD is a legal command word. -/
def accessDuty (s : State) : Access → Prop
  | .read off bits    => supported off bits = true
  | .write off bits v =>
    supported off bits = true ∧
    (∀ r, regAt off = some r → regAccess r ≠ .readOnly → r ≠ .iclr → s.phase = .idle) ∧
    (regAt off = some .cmd → (CmdFields.ofWord v).wf = true)

/-- Whether the Host may use RSV, BDAY and KEY as the result of the last DECODE (R38, R79, R293). -/
def seedUsable (s : State) : Bool := s.status.usable

end Sys2Proof.Machine
end

