-- ==== Sys2Proof/Certificates/Slice0/Obligations.lean ====
section
/-! DEFINITION. The statements for the provers, one per obligation of OBLIGATIONS.json. A result is stated as the
whole next state: `{ s with f := v, ... }` says that every field not named, the model's own fields among them, is as
it was, so that the equation is the command's result, its frame and its completion in one. -/

open Sys2Proof Sys2Proof.Machine

namespace Sys2Proof.Statements

/-- STATUS as a command's completion leaves it: BUSY = 0, DONE = 1 (R251). -/
def ended (t : Status) : Status := { t with busy := false, done := true }

/-- STATUS after an error with code `e`: the first code stays, a second error sets ERRMULTI (R243). -/
def recordError (e : BitVec 4) (t : Status) : Status :=
  if t.err = true then { t with errmulti := true } else { t with err := true, errcode := e }

/-- RSV ‖ BDAY ‖ KEY as a number (R95). -/
def payloadNat (r : BitVec 5) (b : BitVec 10) (k : BitVec 128) : Nat :=
  r.toNat * 2 ^ 138 + b.toNat * 2 ^ 128 + k.toNat

/-- SYM[0] ‖ ... ‖ SYM[12] as a number (R141). -/
def symbolsNat (w : Codeword) : Nat := ∑ j : Fin 13, (w.get j.castSucc).toNat * 2 ^ (132 - 11 * j.val)

/-- `⊕_{j=0}^{12} s[j] ⊗ α^(13−j)` with α = 2 (R127). -/
def checkSum (w : Codeword) : Sym11 :=
  (List.finRange 13).foldl (fun r j => r ^^^ gfMul (w.get j.castSucc) (gfPow 2 (13 - j.val))) 0

/-- `w` with position 1 un-flagged: `(t + COIN) mod 2048` (R191, R195). -/
def unflagged (w : Codeword) (coin : Sym11) : Codeword :=
  w.set 1 (BitVec.ofNat 11 (((w.get 1).toNat + coin.toNat) % 2048))

/-- The flagged value of a symbol: `(c − COIN) mod 2048` (R190). -/
def flaggedValue (v coin : Sym11) : Sym11 := BitVec.ofNat 11 ((v.toNat + 2048 - coin.toNat) % 2048)

/-- popcount(ERMASK) (R192). -/
def erasureCount (m : BitVec 14) : Nat := (Finset.univ.filter fun p : Fin 14 => m.getLsbD p = true).card

/-- The read-write registers with their implemented widths (R61, R65). -/
def rwWidths : List (Reg × Nat) :=
  [(.ctrl, 1), (.coin, 11), (.nwords, 16), (.ermask, 14), (.eridx, 4), (.rsv, 5), (.bday, 10)] ++
    (List.finRange 4).map (fun n => (Reg.key n, 32)) ++ (List.finRange 14).map (fun p => (Reg.sym p, 11))

/-- Two states agree on every register but the DONE and error fields of STATUS, and on PHASE. -/
def SameResults (s t : State) : Prop :=
  s.sym = t.sym ∧ s.rsv = t.rsv ∧ s.bday = t.bday ∧ s.key = t.key ∧ s.coin = t.coin ∧ s.nwords = t.nwords ∧
  s.ermask = t.ermask ∧ s.eridx = t.eridx ∧ s.repl = t.repl ∧ s.ie = t.ie ∧ s.phase = t.phase ∧
  s.status.busy = t.status.busy ∧ s.status.valid = t.status.valid ∧ s.status.usable = t.status.usable ∧
  s.status.pstate = t.status.pstate ∧ s.status.erasure = t.status.erasure

/-- The state after the accesses `as`, served in order. -/
def serveAll (as : List Access) (s : State) : State := as.foldl (fun s a => serve a s) s

/-- An access that is no 32-bit write to CMD or ICLR, the two writes that can take DONE = 1 away (R68, R250, R251). -/
def keepsDone (a : Access) : Prop := ∀ v, a ≠ .write 0x004 32 v ∧ a ≠ .write 0x010 32 v

/-- How many of the accesses are reads. -/
def readCount (as : List Access) : Nat :=
  as.countP fun a => match a with
    | .read _ _ => true
    | .write _ _ _ => false

/-- The PSTATE code of a parse with `n` words, `e` of them erasures, whose un-flagged codeword is valid or not
(R247). -/
def parseCode (n e : Nat) (valid : Bool) : BitVec 3 :=
  if n < 14 then 1 else if n > 14 then 2 else if e ≥ 2 then 3 else if e = 1 then 4 else if valid then 5 else 6

end Sys2Proof.Statements

open Sys2Proof.Statements

/-! ### Encoding -/

/-- R92: the command words of the opcode map. -/
def Obligations.OpcodeMapReadsEveryCommandWord : Prop :=
  decode 0x00000000 = .ok .nop ∧ decode 0x00000001 = .ok .pack ∧ decode 0x00000002 = .ok .unpack ∧
  decode 0x00000003 = .ok .genchk ∧ decode 0x00000004 = .ok .verify ∧ decode 0x00000005 = .ok .flag ∧
  decode 0x00000006 = .ok .unflag ∧ decode 0x00000007 = .ok .repair ∧ decode 0x00000008 = .ok .decode ∧
  decode 0x00000009 = .ok .encode ∧ decode 0x0000000A = .ok .srst ∧
  decode 0x0000000B = .error (.reservedOpcode 0xB) ∧ decode 0x0000000C = .error (.reservedOpcode 0xC) ∧
  decode 0x0000000D = .error (.reservedOpcode 0xD) ∧ decode 0x0000000E = .error (.reservedOpcode 0xE) ∧
  decode 0x0000000F = .error (.reservedOpcode 0xF) ∧ ∀ i : Instr, encode i = i.opcode.setWidth 32

/-- R100: every word is the one command whose word it is, or illegal, and never both. -/
def Obligations.DecodeAcceptsExactlyTheCommandWords : Prop :=
  ∀ w : Word,
    (∃ i, decode w = .ok i ∧ w = encode i ∧ ∀ j, w = encode j → j = i) ∨
    ((∃ e, decode w = .error e) ∧ ∀ j, w ≠ encode j)

/-- R93: which words are illegal, and what a write of one to CMD does, IDLE and BUSY. -/
def Obligations.IllegalWordIsReportedAndChangesNothingElse : Prop :=
  ∀ (w : Word) (s : State), s.resetLine = false →
    ((∃ e, decode w = .error e) ↔ 0xB ≤ w.toNat % 16 ∨ ∃ k, 4 ≤ k ∧ k < 32 ∧ w.getLsbD k = true) ∧
    ((∃ e, decode w = .error e) → s.phase = .idle →
      serve (.write 0x004 32 w) s =
        { s with status := { recordError 1 { s.status with done := false } with done := true } }) ∧
    (∀ op, s.phase = .busy op → serve (.write 0x004 32 w) s = { s with status := recordError 2 s.status })

/-! ### The register window -/

/-- R61: the offsets of the register map, each register's own, and nothing at any other offset. -/
def Obligations.RegisterMapOffsets : Prop :=
  regOffset .id = 0x000 ∧ regOffset .cmd = 0x004 ∧ regOffset .status = 0x008 ∧ regOffset .ctrl = 0x00C ∧
  regOffset .iclr = 0x010 ∧ regOffset .coin = 0x014 ∧ regOffset .nwords = 0x018 ∧ regOffset .ermask = 0x01C ∧
  regOffset .eridx = 0x020 ∧ regOffset .repl = 0x024 ∧ regOffset .rsv = 0x028 ∧ regOffset .bday = 0x02C ∧
  (∀ n : Fin 4, (regOffset (.key n)).toNat = 0x030 + 4 * n.val) ∧
  (∀ p : Fin 14, (regOffset (.sym p)).toNat = 0x040 + 4 * p.val) ∧
  (∀ r, regAt (regOffset r) = some r) ∧
  (∀ off r, regAt off = some r → off = regOffset r) ∧
  (∀ off : Offset, off.toNat % 4 = 0 → (regAt off = none ↔ 0x078 ≤ off.toNat))

/-- R65 (and R78's last sentence): a write while IDLE to a read-write register of width w stores the low w bits,
reads back zero-extended, changes no other register and raises nothing. -/
def Obligations.HostWriteStoresTheImplementedBits : Prop :=
  ∀ (s : State) (v : Word) (r : Reg) (w : Nat), s.phase = .idle → s.resetLine = false → (r, w) ∈ rwWidths →
    ∃ t, serve (.write (regOffset r) 32 v) s = t ∧
      (regValue t r).toNat = v.toNat % 2 ^ w ∧
      serve (.read (regOffset r) 32) t = { t with replies := BitVec.ofNat 32 (v.toNat % 2 ^ w) :: t.replies } ∧
      (∀ r', r' ≠ r → regValue t r' = regValue s r') ∧
      t.status = s.status ∧ t.phase = s.phase ∧ t.resetLine = s.resetLine ∧ t.moves = s.moves ∧
      t.replies = s.replies

/-- R63, R64: writes to read-only registers and reserved offsets are ignored; write-only registers and reserved
offsets read 0; none of these raises an error or has another effect, in either phase. -/
def Obligations.ReadOnlyAndReservedAccessesDoNothing : Prop :=
  ∀ (s : State) (v : Word), s.resetLine = false →
    (∀ r ∈ [Reg.id, Reg.status, Reg.repl], serve (.write (regOffset r) 32 v) s = s) ∧
    (∀ r ∈ [Reg.cmd, Reg.iclr], serve (.read (regOffset r) 32) s = { s with replies := 0 :: s.replies }) ∧
    (∀ off : Offset, off.toNat % 4 = 0 → 0x078 ≤ off.toNat →
      serve (.write off 32 v) s = s ∧ serve (.read off 32) s = { s with replies := 0 :: s.replies })

/-- R77: what a Host read returns, and that it changes nothing but, where the access is bad, the error record. -/
def Obligations.HostReadReturnsTheRegister : Prop :=
  ∀ (s : State) (off : Offset) (bits : Nat), s.resetLine = false →
    (¬ (bits = 32 ∧ off.toNat % 4 = 0) →
      serve (.read off bits) s = { s with status := recordError 5 s.status, replies := 0 :: s.replies }) ∧
    (off.toNat % 4 = 0 →
      ∃ v : Word, serve (.read off 32) s = { s with replies := v :: s.replies } ∧
        (off = 0x004 ∨ off = 0x010 ∨ 0x078 ≤ off.toNat → v = 0) ∧
        (off = 0x000 → v = 0x010B0E01) ∧ (off = 0x008 → v = statusWord s.status) ∧
        (off = 0x00C → v.toNat = s.ie.toNat) ∧ (off = 0x014 → v.toNat = s.coin.toNat) ∧
        (off = 0x018 → v.toNat = s.nwords.toNat) ∧ (off = 0x01C → v.toNat = s.ermask.toNat) ∧
        (off = 0x020 → v.toNat = s.eridx.toNat) ∧ (off = 0x024 → v.toNat = s.repl.toNat) ∧
        (off = 0x028 → v.toNat = s.rsv.toNat) ∧ (off = 0x02C → v.toNat = s.bday.toNat) ∧
        (∀ n : Fin 4, off.toNat = 0x030 + 4 * n.val → v.toNat = s.key.toNat / 2 ^ (96 - 32 * n.val) % 2 ^ 32) ∧
        (∀ p : Fin 14, off.toNat = 0x040 + 4 * p.val → v.toNat = (s.sym.get p).toNat))

/-- R30: where each field of STATUS stands in its word, and that bits 31:14 read 0. -/
def Obligations.StatusWordLayout : Prop :=
  ∀ t : Status,
    (statusWord t).toNat =
      t.busy.toNat + 2 * t.done.toNat + 4 * t.valid.toNat + 8 * t.usable.toNat + 16 * t.pstate.toNat +
        128 * t.err.toNat + 256 * t.errcode.toNat + 4096 * t.errmulti.toNat + 8192 * t.erasure.toNat

/-- R62: an access of another width or alignment changes only the error record and, if a read, returns 0. -/
def Obligations.BadAccessIsRecorded : Prop :=
  ∀ (s : State) (off : Offset) (bits : Nat) (v : Word), s.resetLine = false →
    ¬ (bits = 32 ∧ off.toNat % 4 = 0) →
    serve (.write off bits v) s = { s with status := recordError 5 s.status } ∧
    serve (.read off bits) s = { s with status := recordError 5 s.status, replies := 0 :: s.replies }

/-- R287: what each aligned 32-bit write does while BUSY, and that reads are always allowed. -/
def Obligations.WritesWhileBusyAreDropped : Prop :=
  ∀ (s : State) (op : BitVec 4) (v : Word), s.phase = .busy op → s.resetLine = false →
    serve (.write (regOffset .iclr) 32 v) s = { s with status := clearRecord v s.status } ∧
    (∀ r ∈ [Reg.id, Reg.status, Reg.repl], serve (.write (regOffset r) 32 v) s = s) ∧
    (∀ off : Offset, off.toNat % 4 = 0 → 0x078 ≤ off.toNat → serve (.write off 32 v) s = s) ∧
    (∀ r, r ∉ [Reg.iclr, Reg.id, Reg.status, Reg.repl] →
      serve (.write (regOffset r) 32 v) s = { s with status := recordError 2 s.status }) ∧
    (∀ r, serve (.read (regOffset r) 32) s = { s with replies := regValue s r :: s.replies })

/-- R250: a write to ICLR, in both phases; its read; and that its bit 0 has no effect while BUSY. -/
def Obligations.IclrClearsWhatItsBitsSay : Prop :=
  ∀ (s : State) (v : Word), s.resetLine = false →
    serve (.write 0x010 32 v) s =
      { s with status := { s.status with
          done     := s.status.done && !v.getLsbD 0
          err      := s.status.err && !v.getLsbD 1
          errcode  := if v.getLsbD 1 = true then 0 else s.status.errcode
          errmulti := s.status.errmulti && !v.getLsbD 1 } } ∧
    (v = 0 → serve (.write 0x010 32 v) s = s) ∧
    (s.Inv → s.status.busy = true → (serve (.write 0x010 32 v) s).status.done = s.status.done) ∧
    serve (.read 0x010 32) s = { s with replies := 0 :: s.replies }

/-- R241, R243, R245: the code each error records; a later error keeps the first code and sets ERRMULTI; nothing
else changes; and the Host's clear empties the record. -/
def Obligations.FirstErrorIsKept : Prop :=
  ∀ (s : State) (e e' : ErrCode),
    (errCode .illegalCmd = 1 ∧ errCode .busyWrite = 2 ∧ errCode .badEridx = 3 ∧ errCode .selfchk = 4 ∧
      errCode .badAccess = 5) ∧
    raiseError e s = { s with status := recordError (errCode e) s.status } ∧
    (s.status.err = false →
      raiseError e' (raiseError e s) =
        { s with status := { s.status with err := true, errcode := errCode e, errmulti := true } }) ∧
    writeIclr 2 (raiseError e s) =
      { s with status := { s.status with err := false, errcode := 0, errmulti := false } }

/-- R67: KEY0 is the most significant word, the byte view is big-endian, and a Host that writes a 16-byte buffer to
KEY0 .. KEY3 of the idle block as R67 says has stored it, and nothing else. -/
def Obligations.KeySeedBytesAreBigEndian : Prop :=
  ∀ (k : BitVec 128) (buf : Fin 16 → BitVec 8),
    (∀ n : Fin 4, (keyWord k n).toNat = k.toNat / 2 ^ (96 - 32 * n.val) % 2 ^ 32) ∧
    (∀ b : Fin 16, (keyByte k b).toNat = k.toNat / 2 ^ (120 - 8 * b.val) % 2 ^ 8) ∧
    (∀ (n : Fin 4) (i : Fin 4), ∀ b : Fin 16, b.val = 4 * n.val + i.val →
      keyByte k b = (keyWord k n).extractLsb' (24 - 8 * i.val) 8) ∧
    ∃ k' : BitVec 128, (∀ b, keyByte k' b = buf b) ∧
      k' = setKeyWord (setKeyWord (setKeyWord (setKeyWord k
          0 (keyWordOfBytes (buf 0) (buf 1) (buf 2) (buf 3)))
          1 (keyWordOfBytes (buf 4) (buf 5) (buf 6) (buf 7)))
          2 (keyWordOfBytes (buf 8) (buf 9) (buf 10) (buf 11)))
          3 (keyWordOfBytes (buf 12) (buf 13) (buf 14) (buf 15)) ∧
      ∀ s : State, s.phase = .idle → s.resetLine = false →
        serveAll [.write 0x030 32 (keyWordOfBytes (buf 0) (buf 1) (buf 2) (buf 3)),
            .write 0x034 32 (keyWordOfBytes (buf 4) (buf 5) (buf 6) (buf 7)),
            .write 0x038 32 (keyWordOfBytes (buf 8) (buf 9) (buf 10) (buf 11)),
            .write 0x03C 32 (keyWordOfBytes (buf 12) (buf 13) (buf 14) (buf 15))] s =
          { s with key := k' }

/-- R13, R60, R66: the window's bus addresses and lanes, for whatever BASE the platform chose. The lanes are
the platform's parameter: little-endian ones are the spec's default, and that big-endian ones are the same in reverse
is the model's reading of another convention (notes/assumptions/4.md). -/
def Obligations.BusAddressesReachTheirOffsets : Prop :=
  4096 ∣ Config.base ∧
  (∀ off : Offset, memRead (Config.base + off.toNat) 4 = some (.read off 32) ∧
    ∀ v, memWrite (Config.base + off.toNat) 4 v = some (.write off 32 v)) ∧
  (∀ addr, (addr < Config.base ∨ Config.base + 4096 ≤ addr) → busOffset addr = none) ∧
  (∀ (v : Word) (i : Fin 4), (byteLane v i).toNat = v.toNat / 2 ^ (8 * i.val) % 2 ^ 8) ∧
  (∀ (v : Word) (i : Fin 4), byteLane v i .little = byteLane v i ∧ byteLane v i .big = byteLane v (3 - i))

/-! ### Issue, completion, interrupt -/

/-- R251, issue of a legal command: DONE and BUSY, PHASE and OP, and nothing else; ERR is not cleared. -/
def Obligations.LegalCommandIsIssued : Prop :=
  ∀ (s : State) (i : Instr), s.phase = .idle → s.resetLine = false →
    serve (.write 0x004 32 (encode i)) s =
      { s with status := { s.status with done := false, busy := true }, phase := .busy i.opcode }

/-- R71: every STATUS read after a CMD write sees BUSY = 1, or the DONE = 1 of that very command. For a legal word:
BUSY = 1 and DONE = 0 after any accesses `as` before the completion, then BUSY = 0 and DONE = 1 after the completion
and any accesses `bs` that neither issue another command nor acknowledge this one. For an illegal word: BUSY = 0 and
DONE = 1 after any such accesses. -/
def Obligations.StatusReadAfterCommandWrite : Prop :=
  ∀ (s : State) (w : Word) (as bs : List Access), s.Inv → s.phase = .idle → s.resetLine = false →
    (∀ a ∈ bs, keepsDone a) →
    (∀ i, decode w = .ok i →
      (∃ v : Word,
        serve (.read 0x008 32) (serveAll as (serve (.write 0x004 32 w) s)) =
          { serveAll as (serve (.write 0x004 32 w) s) with
              replies := v :: (serveAll as (serve (.write 0x004 32 w) s)).replies } ∧
        v.getLsbD 0 = true ∧ v.getLsbD 1 = false) ∧
      ∃ (t : State) (v : Word), exec i (serveAll as (serve (.write 0x004 32 w) s)) = .next t ∧
        serve (.read 0x008 32) (serveAll bs t) = { serveAll bs t with replies := v :: (serveAll bs t).replies } ∧
        v.getLsbD 0 = false ∧ v.getLsbD 1 = true) ∧
    ((∃ e, decode w = .error e) →
      ∃ v : Word,
        serve (.read 0x008 32) (serveAll bs (serve (.write 0x004 32 w) s)) =
          { serveAll bs (serve (.write 0x004 32 w) s) with
              replies := v :: (serveAll bs (serve (.write 0x004 32 w) s)).replies } ∧
        v.getLsbD 0 = false ∧ v.getLsbD 1 = true ∧ v.getLsbD 7 = true)

/-- R72, R286: until completion every register but the error and DONE fields of STATUS is as at issue, and a command's
results are the same whenever it completes among the accesses that follow its issue, so that
computing them at issue and applying them at completion is no other machine. -/
def Obligations.ResultsDoNotDependOnAccessesWhileBusy : Prop :=
  ∀ (s : State) (i : Instr) (as : List Access), s.phase = .busy i.opcode →
    SameResults (serveAll as s) s ∧ (∀ r, r ≠ .status → regValue (serveAll as s) r = regValue s r) ∧
    ∃ t u, exec i s = .next t ∧ exec i (serveAll as s) = .next u ∧ SameResults t u ∧
      t.status.done = true ∧ u.status.done = true

/-- R36, R248, R249: irq is a level of IE, DONE and ERR; a write that sets IE raises it at once if DONE or ERR is
set, and a clear of both lowers it. -/
def Obligations.IrqIsALevel : Prop :=
  ∀ s : State,
    (irq s = true ↔ s.ie = true ∧ (s.status.done = true ∨ s.status.err = true)) ∧
    (s.resetLine = false → s.phase = .idle → irq (serve (.write 0x00C 32 1) s) = (s.status.done || s.status.err)) ∧
    (s.resetLine = false → irq (serve (.write 0x010 32 3) s) = false)

/-- R21, R24 to R30, R91, R243, R251: every command completes, and each symbol register, field register and field of
STATUS changes only under a command, and under the condition, for which R91's table lets it be written. -/
def Obligations.EveryCommandCompletesWithinItsWriteSet : Prop :=
  ∀ (i : Instr) (s : State), ∃ t, exec i s = .next t ∧
    t.phase = .idle ∧ t.status.busy = false ∧ t.status.done = true ∧
    t.resetLine = s.resetLine ∧ t.moves = s.moves ∧ t.replies = s.replies ∧
    (i ≠ .srst → t.coin = s.coin ∧ t.nwords = s.nwords ∧ t.ermask = s.ermask ∧ t.ie = s.ie) ∧
    (i ∈ [Instr.nop, .unpack, .verify] → t.sym = s.sym) ∧
    (i = .pack → t.sym.get 13 = s.sym.get 13) ∧
    (i = .genchk → ∀ p, p ≠ 13 → t.sym.get p = s.sym.get p) ∧
    (i = .flag ∨ i = .unflag → ∀ p, p ≠ 1 → t.sym.get p = s.sym.get p) ∧
    (i = .repair → (∀ p : Fin 14, p.val ≠ s.eridx.toNat → t.sym.get p = s.sym.get p) ∧
      (14 ≤ s.eridx.toNat → t.repl = s.repl ∧ t.status.valid = s.status.valid) ∧
      (s.eridx.toNat < 14 → t.status.err = s.status.err ∧ t.status.errcode = s.status.errcode ∧
        t.status.errmulti = s.status.errmulti)) ∧
    (i = .decode → (s.nwords ≠ 14 ∨ 2 ≤ erasureCount s.ermask → t.sym = s.sym) ∧
      (s.nwords ≠ 14 ∨ erasureCount s.ermask ≠ 1 → t.eridx = s.eridx ∧ t.repl = s.repl) ∧
      (t.status.usable = false → t.rsv = s.rsv ∧ t.bday = s.bday ∧ t.key = s.key)) ∧
    (i ∉ [Instr.unpack, .decode, .srst] → t.rsv = s.rsv ∧ t.bday = s.bday ∧ t.key = s.key) ∧
    (i ∉ [Instr.repair, .decode, .srst] → t.repl = s.repl) ∧
    (i ∉ [Instr.decode, .srst] → t.eridx = s.eridx ∧ t.status.usable = s.status.usable ∧
      t.status.pstate = s.status.pstate ∧ t.status.erasure = s.status.erasure) ∧
    (i ∉ [Instr.verify, .repair, .decode, .encode, .srst] → t.status.valid = s.status.valid) ∧
    (i ∉ [Instr.repair, .srst] → t.status.err = s.status.err ∧ t.status.errcode = s.status.errcode ∧
      t.status.errmulti = s.status.errmulti)

/-- R241, R246, R79: an access that keeps the Host's duties raises no error. -/
def Obligations.DutifulAccessesRaiseNothing : Prop :=
  ∀ (s : State) (a : Access), accessDuty s a →
    ((serve a s).status.err = true → s.status.err = true) ∧
    ((serve a s).status.errmulti = true → s.status.errmulti = true) ∧
    ((serve a s).status.err = true → (serve a s).status.errcode = s.status.errcode)

/-! ### Reset -/

/-- R37: the reset values, as the Host reads them and as they are held; and that SRST leaves the same but DONE. -/
def Obligations.ResetValuesAreThoseOfTheTable : Prop :=
  (∀ p, State.reset.sym.get p = 0) ∧ State.reset.rsv = 0 ∧ State.reset.bday = 0 ∧ State.reset.key = 0 ∧
  State.reset.coin = 0 ∧ State.reset.nwords = 0 ∧ State.reset.ermask = 0 ∧ State.reset.eridx = 0 ∧
  State.reset.repl = 0 ∧ State.reset.ie = false ∧ statusWord State.reset.status = 0 ∧
  regValue State.reset .id = 0x010B0E01 ∧ State.reset.phase = .idle ∧ irq State.reset = false ∧
  (∀ r, r ≠ .id → regValue State.reset r = 0) ∧
  ∀ s, ∃ t, exec .srst s = .next t ∧ ∀ r, r ≠ .status → regValue t r = regValue State.reset r

/-- R231: SRST's result, and that it cannot be issued while BUSY. -/
def Obligations.SoftResetLeavesDoneAlone : Prop :=
  decode 0x0000000A = .ok .srst ∧
  ∀ s : State,
    (∃ t, exec .srst s = .next t ∧
      t = { State.reset with
              status := { State.reset.status with done := true }
              resetLine := s.resetLine, moves := s.moves, replies := s.replies } ∧
      statusWord t.status = 0x00000002 ∧ irq t = false) ∧
    (∀ op, s.phase = .busy op → s.resetLine = false →
      serve (.write 0x004 32 0x0000000A) s = { s with status := recordError 2 s.status })

/-- R280: the reset input asserted in any state, any accesses while it is, and its release: every register holds
its reset value, a command in progress is gone, irq is 0, and the accesses had no effect but reads of 0. -/
def Obligations.HardwareResetAbandonsAndIgnores : Prop :=
  ∀ (s : State) (as : List Access), ∃ t, serveAll as (driveReset true s) = t ∧
    (∀ r, regValue t r = regValue State.reset r) ∧ t.phase = .idle ∧ irq t = false ∧
    t.replies = List.replicate (readCount as) 0 ++ s.replies ∧
    driveReset false t = { State.reset with moves := s.moves, replies := t.replies }

/-! ### Steps and runs -/

/-- The model's step around `exec`: with the Engine's turn next, a step is `exec` of the command latched in OP;
otherwise it serves the access or the reset input that comes first; IDLE with nothing to come stays. The moves are
the model's own (notes/assumptions/5.md), and so is where `withFetchWord` puts a command (notes/assumptions/8.md). -/
def Obligations.StepRunsTheCommandInProgress : Prop :=
  ∀ (s : State) (i : Instr),
    (s.resetLine = false → s.phase = .busy i.opcode →
      (s.moves = [] → step s = exec i s) ∧
      (∀ rest, s.moves = .engine :: rest → step s = exec i { s with moves := rest })) ∧
    (∀ a rest, s.moves = .access a :: rest → step s = .next (serve a { s with moves := rest })) ∧
    (∀ b rest, s.moves = .reset b :: rest → step s = .next (driveReset b { s with moves := rest })) ∧
    (s.phase = .idle → s.moves = [] → step s = .next s) ∧
    step (s.withFetchWord 32 (encode i).toNat) =
      exec i { s with
        status := { s.status with done := false, busy := true }
        phase := .busy i.opcode, resetLine := false }

/-- The invariant holds at reset. -/
def Obligations.InvariantHoldsAtReset : Prop := State.reset.Inv

/-- R30, R31, R34, R241, R250, R251, R280: every step keeps the invariant. -/
def Obligations.StepKeepsTheInvariant : Prop := ∀ s t : State, s.Inv → step s = .next t → t.Inv

/-- R295: "The block never halts, hangs or becomes stuck." -/
def Obligations.BlockNeverStops : Prop := ∀ s : State, s.Inv → SafeRun s

/-- R290, R291: a command in progress completes, whatever accesses come meanwhile, unless the reset input moves. The
bound, one step more than the moves to come, is the model's choice and no rule of the spec: latency is the
interleaving, with no cycle counts (notes/assumptions/2.md), and the list of moves, after which the Engine completes,
is the model's own (notes/assumptions/5.md). -/
def Obligations.BusyCommandCompletes : Prop :=
  ∀ (s : State) (i : Instr), s.resetLine = false → s.phase = .busy i.opcode → (∀ b, Move.reset b ∉ s.moves) →
    ∃ k t, 1 ≤ k ∧ k ≤ s.moves.length + 1 ∧ Host.Core.run core k s = .next t ∧
      t.phase = .idle ∧ t.status.busy = false ∧ t.status.done = true ∧
      ∀ j, j < k → ∃ u, Host.Core.run core j s = .next u ∧ u.phase = .busy i.opcode

/-- R99, R251: `run M` from IDLE ends in the state M's completion leaves, after STATUS reads that saw the command
in progress and one that sees it done. The statements as lists of moves with a number of polls are the model's choice
(notes/assumptions/17.md), and so are the list of moves itself (notes/assumptions/5.md) and the list of replies
(notes/assumptions/6.md). -/
def Obligations.RunPseudoInstructionRunsTheCommand : Prop :=
  ∀ (s : State) (i : Instr) (polls : Nat) (rest : List Move), s.phase = .idle → s.resetLine = false →
    s.moves = (Stmt.run i polls).expand ++ rest →
    ∃ u, exec i { s with
          status := { s.status with done := false, busy := true }
          phase := .busy i.opcode, moves := rdMove .status :: rest
          replies :=
            List.replicate polls (statusWord { s.status with done := false, busy := true }) ++ s.replies } = .next u ∧
      Host.Core.run core (polls + 3) s =
        .next { u with moves := rest, replies := statusWord u.status :: u.replies }

/-! ### The field and the code -/

/-- R122: multiplication by `x`, with the rule's own examples. -/
def Obligations.MultiplicationByAlpha : Prop :=
  (∀ a : Sym11, (mul2 a).toNat = if a.toNat < 1024 then 2 * a.toNat else (2 * a.toNat % 2048) ^^^ 5) ∧
  mul2 1023 = 2046 ∧ mul2 1024 = 5 ∧ mul2 1026 = 1 ∧ mul2 2047 = 2043

/-- R121, R123: the laws of ⊕ and ⊗, and that `mul2` is multiplication by 2. -/
def Obligations.FieldLaws : Prop :=
  ∀ a b d : Sym11,
    gfMul a b = gfMul b a ∧ gfMul (gfMul a b) d = gfMul a (gfMul b d) ∧
    gfMul a (gfAdd b d) = gfAdd (gfMul a b) (gfMul a d) ∧ gfMul a 0 = 0 ∧ gfMul a 1 = a ∧ mul2 a = gfMul a 2 ∧
    gfAdd a 0 = a ∧ gfAdd a a = 0 ∧ gfAdd a b = gfAdd b a

/-- R124: α = 2 has order 2047, its named powers, and the inverse of every nonzero element. -/
def Obligations.AlphaIsPrimitive : Prop :=
  gfPow 2 2047 = 1 ∧ (∀ k, 0 < k → k < 2047 → gfPow 2 k ≠ 1) ∧
  gfPow 2 11 = 5 ∧ gfPow 2 13 = 20 ∧ gfInv 2 = 1026 ∧
  ∀ a : Sym11, gfInv a = gfPow a 2046 ∧ (a ≠ 0 → gfMul a (gfInv a) = 1)

/-- R125: the evaluation is the rule's loop of `mul2` and ⊕ over positions 0 to 13, and it is the value of the
polynomial whose coefficient of x^(13−p) is position p. -/
def Obligations.HornerIsTheCodewordSum : Prop :=
  ∀ w : Codeword,
    horner w = (List.finRange 14).foldl (fun r p => mul2 r ^^^ w.get p) 0 ∧
    horner w = (List.finRange 14).foldl (fun r p => r ^^^ gfMul (w.get p) (gfPow 2 (13 - p.val))) 0 ∧
    horner w = codewordSum w

/-- R127: the check symbol as a sum, and that it makes the codeword valid. -/
def Obligations.CheckSymbolMakesTheCodewordValid : Prop :=
  ∀ w : Codeword, checksym w.pop = horner (w.pop.push 0) ∧ checksym w.pop = checkSum w ∧ horner (w.pop.push (checksym w.pop)) = 0 ∧
    ∀ v : Sym11, horner (w.pop.push v) = 0 → v = checksym w.pop

/-- R128: one changed symbol moves the evaluation by the change times a power of α, so it is always detected, and
so is an exchange of two different symbols; two changes can go undetected; the rule's example. -/
def Obligations.SingleCorruptionAndTranspositionDetected : Prop :=
  (∀ (w : Codeword) (p : Fin 14) (v : Sym11), horner w = 0 →
    horner (w.set p v) = gfMul (w.get p ^^^ v) (gfPow 2 (13 - p.val))) ∧
  (∀ (w : Codeword) (p : Fin 14) (v : Sym11), horner w = 0 → v ≠ w.get p → horner (w.set p v) ≠ 0) ∧
  (∀ (w : Codeword) (p q : Fin 14), horner w = 0 → p ≠ q → w.get p ≠ w.get q →
    horner ((w.set p (w.get q)).set q (w.get p)) ≠ 0) ∧
  (∃ (w : Codeword) (p q : Fin 14) (u v : Sym11), horner w = 0 ∧ p ≠ q ∧ u ≠ w.get p ∧ v ≠ w.get q ∧
    horner ((w.set p u).set q v) = 0) ∧
  horner #v[860, 2, 1695, 214, 861, 1425, 966, 147, 63, 76, 969, 211, 997, 1372] = 1216

/-- R129: the flag arithmetic is integer arithmetic modulo 2048, and its two operations undo each other. -/
def Obligations.FlagArithmeticIsModulo2048 : Prop :=
  ∀ a b : Sym11,
    (add11 a b).toNat = (a.toNat + b.toNat) % 2048 ∧ (sub11 a b).toNat = (a.toNat + 2048 - b.toNat) % 2048 ∧
    sub11 (add11 a b) b = a ∧ add11 (sub11 a b) b = a ∧ add11 2047 1 = 0 ∧ sub11 0 1 = 2047

/-- R164: at every position exactly one value makes the codeword valid, and it is the closed form. -/
def Obligations.RepairedValueIsUniqueAndInClosedForm : Prop :=
  ∀ (w : Codeword) (p : Fin 14),
    (∃! v : Sym11, horner (w.set p v) = 0) ∧
    horner (w.set p (gfMul (horner (w.set p 0)) (gfInv (gfPow 2 (13 - p.val))))) = 0

/-- R163, R165: the ascending search of all 2048 candidates finds a value, the closed form's. -/
def Obligations.RepairSearchFindsTheClosedForm : Prop :=
  ∀ (w : Codeword) (p : Fin 14),
    candidates.length = 2048 ∧ (∀ (k : Nat), k < 2048 → candidates[k]? = some (BitVec.ofNat 11 k)) ∧
    firstValid w p = some (repairValue w p)

/-! ### The commands -/

/-- R230. -/
def Obligations.NopChangesBusyAndDoneAlone : Prop :=
  decode 0x00000000 = .ok .nop ∧
  ∀ s : State, exec .nop s = .next { s with status := ended s.status, phase := .idle }

/-- R140: each payload symbol as a slice of the payload number; SYM[13] and all else unchanged. -/
def Obligations.PackSplitsThePayload : Prop :=
  decode 0x00000001 = .ok .pack ∧
  ∀ s : State, ∃ w : Codeword,
    exec .pack s = .next { s with sym := w, status := ended s.status, phase := .idle } ∧
    w.get 13 = s.sym.get 13 ∧
    ∀ j : Fin 13, (w.get j.castSucc).toNat = payloadNat s.rsv s.bday s.key / 2 ^ (132 - 11 * j.val) % 2048

/-- R141: the fields are the payload number that the 13 symbols make; all else unchanged. -/
def Obligations.UnpackJoinsThePayload : Prop :=
  decode 0x00000002 = .ok .unpack ∧
  ∀ s : State, ∃ r b k,
    exec .unpack s =
      .next { s with rsv := r, bday := b, key := k, status := ended s.status, phase := .idle } ∧
    payloadNat r b k = symbolsNat s.sym

/-- R142: UNPACK after PACK and PACK after UNPACK, for every value; the fields and the symbols are overwritten
with anything in between. -/
def Obligations.PackAndUnpackAreInverse : Prop :=
  ∀ (s : State),
    (∀ (r : BitVec 5) (b : BitVec 10) (k : BitVec 128), ∃ t u, exec .pack s = .next t ∧
      exec .unpack { t with rsv := r, bday := b, key := k } = .next u ∧
      u.rsv = s.rsv ∧ u.bday = s.bday ∧ u.key = s.key) ∧
    (∀ (w : Codeword), ∃ t u, exec .unpack s = .next t ∧ exec .pack { t with sym := w } = .next u ∧
      ∀ j : Fin 13, u.sym.get j.castSucc = s.sym.get j.castSucc)

/-- R160: SYM[13] receives the check symbol, whatever it held; a VERIFY then finds the codeword valid. -/
def Obligations.GenchkStoresTheCheckSymbol : Prop :=
  decode 0x00000003 = .ok .genchk ∧
  ∀ s : State, ∃ t, exec .genchk s = .next t ∧
    t = { s with sym := s.sym.set 13 (checkSum s.sym), status := ended s.status, phase := .idle } ∧
    ∃ u, exec .verify t = .next u ∧ u.status.valid = true

/-- R161: VALID is whether the evaluation vanishes; a changed symbol, or a flag with COIN ≠ 0, makes it 0. -/
def Obligations.VerifyTestsTheCodeword : Prop :=
  decode 0x00000004 = .ok .verify ∧
  ∀ s : State,
    exec .verify s =
      .next { s with status := { ended s.status with valid := decide (horner s.sym = 0) }, phase := .idle } ∧
    (horner s.sym = 0 → ∀ (p : Fin 14) (v : Sym11), v ≠ s.sym.get p →
      ∃ u, exec .verify { s with sym := s.sym.set p v } = .next u ∧ u.status.valid = false) ∧
    (horner s.sym = 0 → s.coin ≠ 0 →
      ∃ t u, exec .flag s = .next t ∧ exec .verify t = .next u ∧ u.status.valid = false)

/-- R162, R165: with a legal ERIDX the position receives the one value that makes the codeword valid, and VALID is
1; with ERIDX 14 or 15 only the error record, BUSY and DONE change. -/
def Obligations.RepairFillsTheErasedPosition : Prop :=
  decode 0x00000007 = .ok .repair ∧
  ∀ s : State,
    (∀ p : Fin 14, s.eridx.toNat = p.val →
      ∃ v : Sym11, horner (s.sym.set p v) = 0 ∧ (∀ v', horner (s.sym.set p v') = 0 → v' = v) ∧
        exec .repair s =
          .next { s with
            sym := s.sym.set p v, repl := v
            status := { ended s.status with valid := true }, phase := .idle }) ∧
    (14 ≤ s.eridx.toNat →
      exec .repair s = .next { s with status := ended (recordError 3 s.status), phase := .idle })

/-- R190, R191: the flag transform and its inverse, at position 1 alone. -/
def Obligations.FlagAndUnflagShiftPositionOne : Prop :=
  decode 0x00000005 = .ok .flag ∧ decode 0x00000006 = .ok .unflag ∧
  ∀ s : State,
    exec .flag s =
      .next { s with sym := s.sym.set 1 (flaggedValue (s.sym.get 1) s.coin)
                     status := ended s.status, phase := .idle } ∧
    exec .unflag s = .next { s with sym := unflagged s.sym s.coin, status := ended s.status, phase := .idle } ∧
    (∃ t u, exec .flag s = .next t ∧ exec .unflag t = .next u ∧ u.sym = s.sym) ∧
    (∃ t u, exec .unflag s = .next t ∧ exec .flag t = .next u ∧ u.sym = s.sym)

/-- R193: a word count other than 14 decides the outcome; only STATUS is written. -/
def Obligations.DecodeChecksTheWordCountFirst : Prop :=
  decode 0x00000008 = .ok .decode ∧
  ∀ s : State, s.nwords ≠ 14 →
    exec .decode s =
      .next { s with
        status := { ended s.status with
          valid := false, usable := false, erasure := false, pstate := if s.nwords.toNat < 14 then 1 else 2 }
        phase := .idle }

/-- R194: with 14 words, two or more erasures decide the outcome; only STATUS is written. -/
def Obligations.DecodeStopsAtTwoErasures : Prop :=
  ∀ (s : State) (p q : Fin 14), s.nwords = 14 → p ≠ q → s.ermask.getLsbD p = true → s.ermask.getLsbD q = true →
    exec .decode s =
      .next { s with
        status := { ended s.status with valid := false, usable := false, erasure := false, pstate := 3 }
        phase := .idle }

/-- R195, R198, R199, R200: the branch without an erasure. -/
def Obligations.DecodeWithoutErasure : Prop :=
  ∀ s : State, s.nwords = 14 → s.ermask = 0 →
    (horner (unflagged s.sym s.coin) = 0 →
      ∃ r b k, payloadNat r b k = symbolsNat (unflagged s.sym s.coin) ∧
        exec .decode s =
          .next { s with
            sym := unflagged s.sym s.coin, rsv := r, bday := b, key := k
            status := { ended s.status with valid := true, usable := true, erasure := false, pstate := 5 }
            phase := .idle }) ∧
    (horner (unflagged s.sym s.coin) ≠ 0 →
      exec .decode s =
        .next { s with
          sym := unflagged s.sym s.coin
          status := { ended s.status with valid := false, usable := false, erasure := false, pstate := 6 }
          phase := .idle })

/-- R195, R196, R197, R199, R200: the branch with exactly one erasure; it always ends as `repaired` (R165). -/
def Obligations.DecodeRepairsOneErasure : Prop :=
  ∀ (s : State) (p : Fin 14), s.nwords = 14 → s.ermask = 1#14 <<< p.val →
    ∃ (v : Sym11) (w : Codeword) (r : BitVec 5) (b : BitVec 10) (k : BitVec 128),
      w = (unflagged s.sym s.coin).set p v ∧ horner w = 0 ∧
      (∀ v', horner ((unflagged s.sym s.coin).set p v') = 0 → v' = v) ∧
      payloadNat r b k = symbolsNat w ∧
      exec .decode s =
        .next { s with
          sym := w, rsv := r, bday := b, key := k, eridx := BitVec.ofNat 4 p.val
          repl := if p = 1 then flaggedValue v s.coin else v
          status := { ended s.status with valid := true, usable := true, erasure := true, pstate := 4 }
          phase := .idle }

/-- R247, R31: the outcome is the first that applies; USABLE and VALID go with `repaired` and `specifiedValid`. -/
def Obligations.DecodeReportsTheFirstOutcomeThatApplies : Prop :=
  ∀ s : State, ∃ t, exec .decode s = .next t ∧
    t.status.pstate =
      parseCode s.nwords.toNat (erasureCount s.ermask) (decide (horner (unflagged s.sym s.coin) = 0)) ∧
    (t.status.usable = true ↔ t.status.pstate = 4 ∨ t.status.pstate = 5) ∧ t.status.valid = t.status.usable ∧
    (t.status.erasure = true ↔ t.status.pstate = 4)

/-- R195: what an erased symbol holds has no effect on any result. -/
def Obligations.ErasedSymbolContentIsIgnored : Prop :=
  ∀ (s : State) (p : Fin 14) (v : Sym11), s.nwords = 14 → s.ermask = 1#14 <<< p.val →
    ∃ t, exec .decode s = .next t ∧ exec .decode { s with sym := s.sym.set p v } = .next t

/-- R201, R202: ENCODE's symbols, its frame, and that the self-check never fails. -/
def Obligations.EncodeFormatsTheSeed : Prop :=
  decode 0x00000009 = .ok .encode ∧
  ∀ s : State, ∃ w : Codeword,
    exec .encode s =
      .next { s with sym := w, status := { ended s.status with valid := true }, phase := .idle } ∧
    horner (unflagged w s.coin) = 0 ∧
    (∀ j : Fin 13, ((unflagged w s.coin).get j.castSucc).toNat =
      payloadNat s.rsv s.bday s.key / 2 ^ (132 - 11 * j.val) % 2048) ∧
    w.get 13 = checkSum (unflagged w s.coin)

/-- R203: both round trips, with the fields overwritten by anything between ENCODE and DECODE. -/
def Obligations.EncodeThenDecodeRestoresTheSeed : Prop :=
  ∀ (s : State) (r : BitVec 5) (b : BitVec 10) (k : BitVec 128),
    ∃ t, exec .encode s = .next t ∧
      (∃ u, exec .decode { t with rsv := r, bday := b, key := k, nwords := 14, ermask := 0 } = .next u ∧
        u.status.pstate = 5 ∧ u.status.usable = true ∧ u.rsv = s.rsv ∧ u.bday = s.bday ∧ u.key = s.key) ∧
      (∀ (p : Fin 14) (v : Sym11), ∃ u,
        exec .decode { t with
            sym := t.sym.set p v, rsv := r, bday := b, key := k, nwords := 14, ermask := 1#14 <<< p.val } =
          .next u ∧
        u.status.pstate = 4 ∧ u.status.usable = true ∧ u.repl = t.sym.get p ∧
        u.rsv = s.rsv ∧ u.bday = s.bday ∧ u.key = s.key)

/-- R204: under another coin flag and without an erasure the checksum fails. With one erasure the parse is
`repaired`, with wrong fields, unless the erased position is the flagged one: there the fields are the formatted ones
(notes/assumptions/9.md, the model's inference from R190, R191 and R195). -/
def Obligations.WrongNetworkFailsTheChecksum : Prop :=
  ∀ (s : State) (coin : Sym11), coin ≠ s.coin →
    ∃ t, exec .encode s = .next t ∧
      (∃ u, exec .decode { t with coin := coin, nwords := 14, ermask := 0 } = .next u ∧
        u.status.pstate = 6 ∧ u.status.usable = false) ∧
      (∀ p : Fin 14, ∃ u, exec .decode { t with coin := coin, nwords := 14, ermask := 1#14 <<< p.val } = .next u ∧
        u.status.pstate = 4 ∧ u.status.usable = true ∧
        ((u.rsv = s.rsv ∧ u.bday = s.bday ∧ u.key = s.key) ↔ p = 1))

/-- R205: one substituted word in a valid text, not marked as an erasure, is detected and not repaired. -/
def Obligations.SubstitutionIsDetectedNotRepaired : Prop :=
  ∀ (s : State) (p : Fin 14) (v : Sym11), s.nwords = 14 → s.ermask = 0 →
    horner (unflagged s.sym s.coin) = 0 → v ≠ s.sym.get p →
    ∃ u, exec .decode { s with sym := s.sym.set p v } = .next u ∧ u.status.pstate = 6 ∧
      u.status.usable = false ∧ u.sym = unflagged (s.sym.set p v) s.coin ∧
      u.repl = s.repl ∧ u.eridx = s.eridx ∧ u.rsv = s.rsv ∧ u.bday = s.bday ∧ u.key = s.key

/-! ### The Host's procedure -/

/-- R293, R25: the Host's parse procedure from any idle state, for any number of words and any lookups: the
outcome it reads, decided by the true word count, the failed lookups and the symbols found. The procedure as a list of
moves is the model's choice (notes/assumptions/17.md), and so are the lists of moves and of replies
(notes/assumptions/5.md, notes/assumptions/6.md). -/
def Obligations.HostParseReadsTheOutcome : Prop :=
  ∀ (words : List (Option Sym11)) (polls : Nat) (s : State) (rest : List Move),
    s.phase = .idle → s.resetLine = false → s.moves = expandAll (hostParse words polls) ++ rest →
    ∃ (t : State) (w : Codeword),
      Host.Core.run core (expandAll (hostParse words polls)).length s = .next t ∧
      t.moves = rest ∧ t.phase = .idle ∧ t.replies.head? = some (statusWord t.status) ∧
      (∀ (p : Fin 14) (v : Sym11), words[p.val]? = some (some v) → w.get p = v) ∧
      t.status.pstate =
        parseCode words.length (words.count none) (decide (horner (unflagged w s.coin) = 0))
end

