-- ==== Sys2Proof/Laws/State.lean ====
section
/-! SUPPORT. What each update of the state does to each of its fields: one lemma per field per update, true by rfl,
so that no proof unfolds a record update. -/

namespace Sys2Proof.Machine

@[simp] theorem State.setSym_sym (s : State) (v : Codeword) : (s.setSym v).sym = v := rfl
@[simp] theorem State.setSym_rsv (s : State) (v : Codeword) : (s.setSym v).rsv = s.rsv := rfl
@[simp] theorem State.setSym_bday (s : State) (v : Codeword) : (s.setSym v).bday = s.bday := rfl
@[simp] theorem State.setSym_key (s : State) (v : Codeword) : (s.setSym v).key = s.key := rfl
@[simp] theorem State.setSym_coin (s : State) (v : Codeword) : (s.setSym v).coin = s.coin := rfl
@[simp] theorem State.setSym_nwords (s : State) (v : Codeword) : (s.setSym v).nwords = s.nwords := rfl
@[simp] theorem State.setSym_ermask (s : State) (v : Codeword) : (s.setSym v).ermask = s.ermask := rfl
@[simp] theorem State.setSym_eridx (s : State) (v : Codeword) : (s.setSym v).eridx = s.eridx := rfl
@[simp] theorem State.setSym_repl (s : State) (v : Codeword) : (s.setSym v).repl = s.repl := rfl
@[simp] theorem State.setSym_ie (s : State) (v : Codeword) : (s.setSym v).ie = s.ie := rfl
@[simp] theorem State.setSym_status (s : State) (v : Codeword) : (s.setSym v).status = s.status := rfl
@[simp] theorem State.setSym_phase (s : State) (v : Codeword) : (s.setSym v).phase = s.phase := rfl
@[simp] theorem State.setSym_resetLine (s : State) (v : Codeword) : (s.setSym v).resetLine = s.resetLine := rfl
@[simp] theorem State.setSym_moves (s : State) (v : Codeword) : (s.setSym v).moves = s.moves := rfl
@[simp] theorem State.setSym_replies (s : State) (v : Codeword) : (s.setSym v).replies = s.replies := rfl

@[simp] theorem State.setSeed_sym (s : State) (r : BitVec 5) (b : BitVec 10) (k : BitVec 128) : (s.setSeed r b k).sym = s.sym := rfl
@[simp] theorem State.setSeed_rsv (s : State) (r : BitVec 5) (b : BitVec 10) (k : BitVec 128) : (s.setSeed r b k).rsv = r := rfl
@[simp] theorem State.setSeed_bday (s : State) (r : BitVec 5) (b : BitVec 10) (k : BitVec 128) : (s.setSeed r b k).bday = b := rfl
@[simp] theorem State.setSeed_key (s : State) (r : BitVec 5) (b : BitVec 10) (k : BitVec 128) : (s.setSeed r b k).key = k := rfl
@[simp] theorem State.setSeed_coin (s : State) (r : BitVec 5) (b : BitVec 10) (k : BitVec 128) : (s.setSeed r b k).coin = s.coin := rfl
@[simp] theorem State.setSeed_nwords (s : State) (r : BitVec 5) (b : BitVec 10) (k : BitVec 128) : (s.setSeed r b k).nwords = s.nwords := rfl
@[simp] theorem State.setSeed_ermask (s : State) (r : BitVec 5) (b : BitVec 10) (k : BitVec 128) : (s.setSeed r b k).ermask = s.ermask := rfl
@[simp] theorem State.setSeed_eridx (s : State) (r : BitVec 5) (b : BitVec 10) (k : BitVec 128) : (s.setSeed r b k).eridx = s.eridx := rfl
@[simp] theorem State.setSeed_repl (s : State) (r : BitVec 5) (b : BitVec 10) (k : BitVec 128) : (s.setSeed r b k).repl = s.repl := rfl
@[simp] theorem State.setSeed_ie (s : State) (r : BitVec 5) (b : BitVec 10) (k : BitVec 128) : (s.setSeed r b k).ie = s.ie := rfl
@[simp] theorem State.setSeed_status (s : State) (r : BitVec 5) (b : BitVec 10) (k : BitVec 128) : (s.setSeed r b k).status = s.status := rfl
@[simp] theorem State.setSeed_phase (s : State) (r : BitVec 5) (b : BitVec 10) (k : BitVec 128) : (s.setSeed r b k).phase = s.phase := rfl
@[simp] theorem State.setSeed_resetLine (s : State) (r : BitVec 5) (b : BitVec 10) (k : BitVec 128) : (s.setSeed r b k).resetLine = s.resetLine := rfl
@[simp] theorem State.setSeed_moves (s : State) (r : BitVec 5) (b : BitVec 10) (k : BitVec 128) : (s.setSeed r b k).moves = s.moves := rfl
@[simp] theorem State.setSeed_replies (s : State) (r : BitVec 5) (b : BitVec 10) (k : BitVec 128) : (s.setSeed r b k).replies = s.replies := rfl

@[simp] theorem State.setCoin_sym (s : State) (v : Sym11) : (s.setCoin v).sym = s.sym := rfl
@[simp] theorem State.setCoin_rsv (s : State) (v : Sym11) : (s.setCoin v).rsv = s.rsv := rfl
@[simp] theorem State.setCoin_bday (s : State) (v : Sym11) : (s.setCoin v).bday = s.bday := rfl
@[simp] theorem State.setCoin_key (s : State) (v : Sym11) : (s.setCoin v).key = s.key := rfl
@[simp] theorem State.setCoin_coin (s : State) (v : Sym11) : (s.setCoin v).coin = v := rfl
@[simp] theorem State.setCoin_nwords (s : State) (v : Sym11) : (s.setCoin v).nwords = s.nwords := rfl
@[simp] theorem State.setCoin_ermask (s : State) (v : Sym11) : (s.setCoin v).ermask = s.ermask := rfl
@[simp] theorem State.setCoin_eridx (s : State) (v : Sym11) : (s.setCoin v).eridx = s.eridx := rfl
@[simp] theorem State.setCoin_repl (s : State) (v : Sym11) : (s.setCoin v).repl = s.repl := rfl
@[simp] theorem State.setCoin_ie (s : State) (v : Sym11) : (s.setCoin v).ie = s.ie := rfl
@[simp] theorem State.setCoin_status (s : State) (v : Sym11) : (s.setCoin v).status = s.status := rfl
@[simp] theorem State.setCoin_phase (s : State) (v : Sym11) : (s.setCoin v).phase = s.phase := rfl
@[simp] theorem State.setCoin_resetLine (s : State) (v : Sym11) : (s.setCoin v).resetLine = s.resetLine := rfl
@[simp] theorem State.setCoin_moves (s : State) (v : Sym11) : (s.setCoin v).moves = s.moves := rfl
@[simp] theorem State.setCoin_replies (s : State) (v : Sym11) : (s.setCoin v).replies = s.replies := rfl

@[simp] theorem State.setNwords_sym (s : State) (v : BitVec 16) : (s.setNwords v).sym = s.sym := rfl
@[simp] theorem State.setNwords_rsv (s : State) (v : BitVec 16) : (s.setNwords v).rsv = s.rsv := rfl
@[simp] theorem State.setNwords_bday (s : State) (v : BitVec 16) : (s.setNwords v).bday = s.bday := rfl
@[simp] theorem State.setNwords_key (s : State) (v : BitVec 16) : (s.setNwords v).key = s.key := rfl
@[simp] theorem State.setNwords_coin (s : State) (v : BitVec 16) : (s.setNwords v).coin = s.coin := rfl
@[simp] theorem State.setNwords_nwords (s : State) (v : BitVec 16) : (s.setNwords v).nwords = v := rfl
@[simp] theorem State.setNwords_ermask (s : State) (v : BitVec 16) : (s.setNwords v).ermask = s.ermask := rfl
@[simp] theorem State.setNwords_eridx (s : State) (v : BitVec 16) : (s.setNwords v).eridx = s.eridx := rfl
@[simp] theorem State.setNwords_repl (s : State) (v : BitVec 16) : (s.setNwords v).repl = s.repl := rfl
@[simp] theorem State.setNwords_ie (s : State) (v : BitVec 16) : (s.setNwords v).ie = s.ie := rfl
@[simp] theorem State.setNwords_status (s : State) (v : BitVec 16) : (s.setNwords v).status = s.status := rfl
@[simp] theorem State.setNwords_phase (s : State) (v : BitVec 16) : (s.setNwords v).phase = s.phase := rfl
@[simp] theorem State.setNwords_resetLine (s : State) (v : BitVec 16) : (s.setNwords v).resetLine = s.resetLine := rfl
@[simp] theorem State.setNwords_moves (s : State) (v : BitVec 16) : (s.setNwords v).moves = s.moves := rfl
@[simp] theorem State.setNwords_replies (s : State) (v : BitVec 16) : (s.setNwords v).replies = s.replies := rfl

@[simp] theorem State.setErmask_sym (s : State) (v : BitVec 14) : (s.setErmask v).sym = s.sym := rfl
@[simp] theorem State.setErmask_rsv (s : State) (v : BitVec 14) : (s.setErmask v).rsv = s.rsv := rfl
@[simp] theorem State.setErmask_bday (s : State) (v : BitVec 14) : (s.setErmask v).bday = s.bday := rfl
@[simp] theorem State.setErmask_key (s : State) (v : BitVec 14) : (s.setErmask v).key = s.key := rfl
@[simp] theorem State.setErmask_coin (s : State) (v : BitVec 14) : (s.setErmask v).coin = s.coin := rfl
@[simp] theorem State.setErmask_nwords (s : State) (v : BitVec 14) : (s.setErmask v).nwords = s.nwords := rfl
@[simp] theorem State.setErmask_ermask (s : State) (v : BitVec 14) : (s.setErmask v).ermask = v := rfl
@[simp] theorem State.setErmask_eridx (s : State) (v : BitVec 14) : (s.setErmask v).eridx = s.eridx := rfl
@[simp] theorem State.setErmask_repl (s : State) (v : BitVec 14) : (s.setErmask v).repl = s.repl := rfl
@[simp] theorem State.setErmask_ie (s : State) (v : BitVec 14) : (s.setErmask v).ie = s.ie := rfl
@[simp] theorem State.setErmask_status (s : State) (v : BitVec 14) : (s.setErmask v).status = s.status := rfl
@[simp] theorem State.setErmask_phase (s : State) (v : BitVec 14) : (s.setErmask v).phase = s.phase := rfl
@[simp] theorem State.setErmask_resetLine (s : State) (v : BitVec 14) : (s.setErmask v).resetLine = s.resetLine := rfl
@[simp] theorem State.setErmask_moves (s : State) (v : BitVec 14) : (s.setErmask v).moves = s.moves := rfl
@[simp] theorem State.setErmask_replies (s : State) (v : BitVec 14) : (s.setErmask v).replies = s.replies := rfl

@[simp] theorem State.setEridx_sym (s : State) (v : BitVec 4) : (s.setEridx v).sym = s.sym := rfl
@[simp] theorem State.setEridx_rsv (s : State) (v : BitVec 4) : (s.setEridx v).rsv = s.rsv := rfl
@[simp] theorem State.setEridx_bday (s : State) (v : BitVec 4) : (s.setEridx v).bday = s.bday := rfl
@[simp] theorem State.setEridx_key (s : State) (v : BitVec 4) : (s.setEridx v).key = s.key := rfl
@[simp] theorem State.setEridx_coin (s : State) (v : BitVec 4) : (s.setEridx v).coin = s.coin := rfl
@[simp] theorem State.setEridx_nwords (s : State) (v : BitVec 4) : (s.setEridx v).nwords = s.nwords := rfl
@[simp] theorem State.setEridx_ermask (s : State) (v : BitVec 4) : (s.setEridx v).ermask = s.ermask := rfl
@[simp] theorem State.setEridx_eridx (s : State) (v : BitVec 4) : (s.setEridx v).eridx = v := rfl
@[simp] theorem State.setEridx_repl (s : State) (v : BitVec 4) : (s.setEridx v).repl = s.repl := rfl
@[simp] theorem State.setEridx_ie (s : State) (v : BitVec 4) : (s.setEridx v).ie = s.ie := rfl
@[simp] theorem State.setEridx_status (s : State) (v : BitVec 4) : (s.setEridx v).status = s.status := rfl
@[simp] theorem State.setEridx_phase (s : State) (v : BitVec 4) : (s.setEridx v).phase = s.phase := rfl
@[simp] theorem State.setEridx_resetLine (s : State) (v : BitVec 4) : (s.setEridx v).resetLine = s.resetLine := rfl
@[simp] theorem State.setEridx_moves (s : State) (v : BitVec 4) : (s.setEridx v).moves = s.moves := rfl
@[simp] theorem State.setEridx_replies (s : State) (v : BitVec 4) : (s.setEridx v).replies = s.replies := rfl

@[simp] theorem State.setRepl_sym (s : State) (v : Sym11) : (s.setRepl v).sym = s.sym := rfl
@[simp] theorem State.setRepl_rsv (s : State) (v : Sym11) : (s.setRepl v).rsv = s.rsv := rfl
@[simp] theorem State.setRepl_bday (s : State) (v : Sym11) : (s.setRepl v).bday = s.bday := rfl
@[simp] theorem State.setRepl_key (s : State) (v : Sym11) : (s.setRepl v).key = s.key := rfl
@[simp] theorem State.setRepl_coin (s : State) (v : Sym11) : (s.setRepl v).coin = s.coin := rfl
@[simp] theorem State.setRepl_nwords (s : State) (v : Sym11) : (s.setRepl v).nwords = s.nwords := rfl
@[simp] theorem State.setRepl_ermask (s : State) (v : Sym11) : (s.setRepl v).ermask = s.ermask := rfl
@[simp] theorem State.setRepl_eridx (s : State) (v : Sym11) : (s.setRepl v).eridx = s.eridx := rfl
@[simp] theorem State.setRepl_repl (s : State) (v : Sym11) : (s.setRepl v).repl = v := rfl
@[simp] theorem State.setRepl_ie (s : State) (v : Sym11) : (s.setRepl v).ie = s.ie := rfl
@[simp] theorem State.setRepl_status (s : State) (v : Sym11) : (s.setRepl v).status = s.status := rfl
@[simp] theorem State.setRepl_phase (s : State) (v : Sym11) : (s.setRepl v).phase = s.phase := rfl
@[simp] theorem State.setRepl_resetLine (s : State) (v : Sym11) : (s.setRepl v).resetLine = s.resetLine := rfl
@[simp] theorem State.setRepl_moves (s : State) (v : Sym11) : (s.setRepl v).moves = s.moves := rfl
@[simp] theorem State.setRepl_replies (s : State) (v : Sym11) : (s.setRepl v).replies = s.replies := rfl

@[simp] theorem State.setIe_sym (s : State) (v : Bool) : (s.setIe v).sym = s.sym := rfl
@[simp] theorem State.setIe_rsv (s : State) (v : Bool) : (s.setIe v).rsv = s.rsv := rfl
@[simp] theorem State.setIe_bday (s : State) (v : Bool) : (s.setIe v).bday = s.bday := rfl
@[simp] theorem State.setIe_key (s : State) (v : Bool) : (s.setIe v).key = s.key := rfl
@[simp] theorem State.setIe_coin (s : State) (v : Bool) : (s.setIe v).coin = s.coin := rfl
@[simp] theorem State.setIe_nwords (s : State) (v : Bool) : (s.setIe v).nwords = s.nwords := rfl
@[simp] theorem State.setIe_ermask (s : State) (v : Bool) : (s.setIe v).ermask = s.ermask := rfl
@[simp] theorem State.setIe_eridx (s : State) (v : Bool) : (s.setIe v).eridx = s.eridx := rfl
@[simp] theorem State.setIe_repl (s : State) (v : Bool) : (s.setIe v).repl = s.repl := rfl
@[simp] theorem State.setIe_ie (s : State) (v : Bool) : (s.setIe v).ie = v := rfl
@[simp] theorem State.setIe_status (s : State) (v : Bool) : (s.setIe v).status = s.status := rfl
@[simp] theorem State.setIe_phase (s : State) (v : Bool) : (s.setIe v).phase = s.phase := rfl
@[simp] theorem State.setIe_resetLine (s : State) (v : Bool) : (s.setIe v).resetLine = s.resetLine := rfl
@[simp] theorem State.setIe_moves (s : State) (v : Bool) : (s.setIe v).moves = s.moves := rfl
@[simp] theorem State.setIe_replies (s : State) (v : Bool) : (s.setIe v).replies = s.replies := rfl

@[simp] theorem State.setStatus_sym (s : State) (v : Status) : (s.setStatus v).sym = s.sym := rfl
@[simp] theorem State.setStatus_rsv (s : State) (v : Status) : (s.setStatus v).rsv = s.rsv := rfl
@[simp] theorem State.setStatus_bday (s : State) (v : Status) : (s.setStatus v).bday = s.bday := rfl
@[simp] theorem State.setStatus_key (s : State) (v : Status) : (s.setStatus v).key = s.key := rfl
@[simp] theorem State.setStatus_coin (s : State) (v : Status) : (s.setStatus v).coin = s.coin := rfl
@[simp] theorem State.setStatus_nwords (s : State) (v : Status) : (s.setStatus v).nwords = s.nwords := rfl
@[simp] theorem State.setStatus_ermask (s : State) (v : Status) : (s.setStatus v).ermask = s.ermask := rfl
@[simp] theorem State.setStatus_eridx (s : State) (v : Status) : (s.setStatus v).eridx = s.eridx := rfl
@[simp] theorem State.setStatus_repl (s : State) (v : Status) : (s.setStatus v).repl = s.repl := rfl
@[simp] theorem State.setStatus_ie (s : State) (v : Status) : (s.setStatus v).ie = s.ie := rfl
@[simp] theorem State.setStatus_status (s : State) (v : Status) : (s.setStatus v).status = v := rfl
@[simp] theorem State.setStatus_phase (s : State) (v : Status) : (s.setStatus v).phase = s.phase := rfl
@[simp] theorem State.setStatus_resetLine (s : State) (v : Status) : (s.setStatus v).resetLine = s.resetLine := rfl
@[simp] theorem State.setStatus_moves (s : State) (v : Status) : (s.setStatus v).moves = s.moves := rfl
@[simp] theorem State.setStatus_replies (s : State) (v : Status) : (s.setStatus v).replies = s.replies := rfl

@[simp] theorem State.setPhase_sym (s : State) (v : Phase) : (s.setPhase v).sym = s.sym := rfl
@[simp] theorem State.setPhase_rsv (s : State) (v : Phase) : (s.setPhase v).rsv = s.rsv := rfl
@[simp] theorem State.setPhase_bday (s : State) (v : Phase) : (s.setPhase v).bday = s.bday := rfl
@[simp] theorem State.setPhase_key (s : State) (v : Phase) : (s.setPhase v).key = s.key := rfl
@[simp] theorem State.setPhase_coin (s : State) (v : Phase) : (s.setPhase v).coin = s.coin := rfl
@[simp] theorem State.setPhase_nwords (s : State) (v : Phase) : (s.setPhase v).nwords = s.nwords := rfl
@[simp] theorem State.setPhase_ermask (s : State) (v : Phase) : (s.setPhase v).ermask = s.ermask := rfl
@[simp] theorem State.setPhase_eridx (s : State) (v : Phase) : (s.setPhase v).eridx = s.eridx := rfl
@[simp] theorem State.setPhase_repl (s : State) (v : Phase) : (s.setPhase v).repl = s.repl := rfl
@[simp] theorem State.setPhase_ie (s : State) (v : Phase) : (s.setPhase v).ie = s.ie := rfl
@[simp] theorem State.setPhase_status (s : State) (v : Phase) : (s.setPhase v).status = s.status := rfl
@[simp] theorem State.setPhase_phase (s : State) (v : Phase) : (s.setPhase v).phase = v := rfl
@[simp] theorem State.setPhase_resetLine (s : State) (v : Phase) : (s.setPhase v).resetLine = s.resetLine := rfl
@[simp] theorem State.setPhase_moves (s : State) (v : Phase) : (s.setPhase v).moves = s.moves := rfl
@[simp] theorem State.setPhase_replies (s : State) (v : Phase) : (s.setPhase v).replies = s.replies := rfl

@[simp] theorem State.setResetLine_sym (s : State) (v : Bool) : (s.setResetLine v).sym = s.sym := rfl
@[simp] theorem State.setResetLine_rsv (s : State) (v : Bool) : (s.setResetLine v).rsv = s.rsv := rfl
@[simp] theorem State.setResetLine_bday (s : State) (v : Bool) : (s.setResetLine v).bday = s.bday := rfl
@[simp] theorem State.setResetLine_key (s : State) (v : Bool) : (s.setResetLine v).key = s.key := rfl
@[simp] theorem State.setResetLine_coin (s : State) (v : Bool) : (s.setResetLine v).coin = s.coin := rfl
@[simp] theorem State.setResetLine_nwords (s : State) (v : Bool) : (s.setResetLine v).nwords = s.nwords := rfl
@[simp] theorem State.setResetLine_ermask (s : State) (v : Bool) : (s.setResetLine v).ermask = s.ermask := rfl
@[simp] theorem State.setResetLine_eridx (s : State) (v : Bool) : (s.setResetLine v).eridx = s.eridx := rfl
@[simp] theorem State.setResetLine_repl (s : State) (v : Bool) : (s.setResetLine v).repl = s.repl := rfl
@[simp] theorem State.setResetLine_ie (s : State) (v : Bool) : (s.setResetLine v).ie = s.ie := rfl
@[simp] theorem State.setResetLine_status (s : State) (v : Bool) : (s.setResetLine v).status = s.status := rfl
@[simp] theorem State.setResetLine_phase (s : State) (v : Bool) : (s.setResetLine v).phase = s.phase := rfl
@[simp] theorem State.setResetLine_resetLine (s : State) (v : Bool) : (s.setResetLine v).resetLine = v := rfl
@[simp] theorem State.setResetLine_moves (s : State) (v : Bool) : (s.setResetLine v).moves = s.moves := rfl
@[simp] theorem State.setResetLine_replies (s : State) (v : Bool) : (s.setResetLine v).replies = s.replies := rfl

@[simp] theorem State.setMoves_sym (s : State) (v : List Move) : (s.setMoves v).sym = s.sym := rfl
@[simp] theorem State.setMoves_rsv (s : State) (v : List Move) : (s.setMoves v).rsv = s.rsv := rfl
@[simp] theorem State.setMoves_bday (s : State) (v : List Move) : (s.setMoves v).bday = s.bday := rfl
@[simp] theorem State.setMoves_key (s : State) (v : List Move) : (s.setMoves v).key = s.key := rfl
@[simp] theorem State.setMoves_coin (s : State) (v : List Move) : (s.setMoves v).coin = s.coin := rfl
@[simp] theorem State.setMoves_nwords (s : State) (v : List Move) : (s.setMoves v).nwords = s.nwords := rfl
@[simp] theorem State.setMoves_ermask (s : State) (v : List Move) : (s.setMoves v).ermask = s.ermask := rfl
@[simp] theorem State.setMoves_eridx (s : State) (v : List Move) : (s.setMoves v).eridx = s.eridx := rfl
@[simp] theorem State.setMoves_repl (s : State) (v : List Move) : (s.setMoves v).repl = s.repl := rfl
@[simp] theorem State.setMoves_ie (s : State) (v : List Move) : (s.setMoves v).ie = s.ie := rfl
@[simp] theorem State.setMoves_status (s : State) (v : List Move) : (s.setMoves v).status = s.status := rfl
@[simp] theorem State.setMoves_phase (s : State) (v : List Move) : (s.setMoves v).phase = s.phase := rfl
@[simp] theorem State.setMoves_resetLine (s : State) (v : List Move) : (s.setMoves v).resetLine = s.resetLine := rfl
@[simp] theorem State.setMoves_moves (s : State) (v : List Move) : (s.setMoves v).moves = v := rfl
@[simp] theorem State.setMoves_replies (s : State) (v : List Move) : (s.setMoves v).replies = s.replies := rfl

@[simp] theorem State.pushReply_sym (s : State) (v : Word) : (s.pushReply v).sym = s.sym := rfl
@[simp] theorem State.pushReply_rsv (s : State) (v : Word) : (s.pushReply v).rsv = s.rsv := rfl
@[simp] theorem State.pushReply_bday (s : State) (v : Word) : (s.pushReply v).bday = s.bday := rfl
@[simp] theorem State.pushReply_key (s : State) (v : Word) : (s.pushReply v).key = s.key := rfl
@[simp] theorem State.pushReply_coin (s : State) (v : Word) : (s.pushReply v).coin = s.coin := rfl
@[simp] theorem State.pushReply_nwords (s : State) (v : Word) : (s.pushReply v).nwords = s.nwords := rfl
@[simp] theorem State.pushReply_ermask (s : State) (v : Word) : (s.pushReply v).ermask = s.ermask := rfl
@[simp] theorem State.pushReply_eridx (s : State) (v : Word) : (s.pushReply v).eridx = s.eridx := rfl
@[simp] theorem State.pushReply_repl (s : State) (v : Word) : (s.pushReply v).repl = s.repl := rfl
@[simp] theorem State.pushReply_ie (s : State) (v : Word) : (s.pushReply v).ie = s.ie := rfl
@[simp] theorem State.pushReply_status (s : State) (v : Word) : (s.pushReply v).status = s.status := rfl
@[simp] theorem State.pushReply_phase (s : State) (v : Word) : (s.pushReply v).phase = s.phase := rfl
@[simp] theorem State.pushReply_resetLine (s : State) (v : Word) : (s.pushReply v).resetLine = s.resetLine := rfl
@[simp] theorem State.pushReply_moves (s : State) (v : Word) : (s.pushReply v).moves = s.moves := rfl
@[simp] theorem State.pushReply_replies (s : State) (v : Word) : (s.pushReply v).replies = v :: s.replies := rfl

/-! The shared operations that write STATUS, PHASE or all registers. -/

@[simp] theorem complete_sym (s : State) : (complete s).sym = s.sym := rfl
@[simp] theorem complete_rsv (s : State) : (complete s).rsv = s.rsv := rfl
@[simp] theorem complete_bday (s : State) : (complete s).bday = s.bday := rfl
@[simp] theorem complete_key (s : State) : (complete s).key = s.key := rfl
@[simp] theorem complete_coin (s : State) : (complete s).coin = s.coin := rfl
@[simp] theorem complete_nwords (s : State) : (complete s).nwords = s.nwords := rfl
@[simp] theorem complete_ermask (s : State) : (complete s).ermask = s.ermask := rfl
@[simp] theorem complete_eridx (s : State) : (complete s).eridx = s.eridx := rfl
@[simp] theorem complete_repl (s : State) : (complete s).repl = s.repl := rfl
@[simp] theorem complete_ie (s : State) : (complete s).ie = s.ie := rfl
@[simp] theorem complete_status (s : State) : (complete s).status = completedRecord s.status := rfl
@[simp] theorem complete_phase (s : State) : (complete s).phase = .idle := rfl
@[simp] theorem complete_resetLine (s : State) : (complete s).resetLine = s.resetLine := rfl
@[simp] theorem complete_moves (s : State) : (complete s).moves = s.moves := rfl
@[simp] theorem complete_replies (s : State) : (complete s).replies = s.replies := rfl

@[simp] theorem raiseError_sym (e : ErrCode) (s : State) : (raiseError e s).sym = s.sym := rfl
@[simp] theorem raiseError_rsv (e : ErrCode) (s : State) : (raiseError e s).rsv = s.rsv := rfl
@[simp] theorem raiseError_bday (e : ErrCode) (s : State) : (raiseError e s).bday = s.bday := rfl
@[simp] theorem raiseError_key (e : ErrCode) (s : State) : (raiseError e s).key = s.key := rfl
@[simp] theorem raiseError_coin (e : ErrCode) (s : State) : (raiseError e s).coin = s.coin := rfl
@[simp] theorem raiseError_nwords (e : ErrCode) (s : State) : (raiseError e s).nwords = s.nwords := rfl
@[simp] theorem raiseError_ermask (e : ErrCode) (s : State) : (raiseError e s).ermask = s.ermask := rfl
@[simp] theorem raiseError_eridx (e : ErrCode) (s : State) : (raiseError e s).eridx = s.eridx := rfl
@[simp] theorem raiseError_repl (e : ErrCode) (s : State) : (raiseError e s).repl = s.repl := rfl
@[simp] theorem raiseError_ie (e : ErrCode) (s : State) : (raiseError e s).ie = s.ie := rfl
@[simp] theorem raiseError_status (e : ErrCode) (s : State) : (raiseError e s).status = raiseRecord e s.status := rfl
@[simp] theorem raiseError_phase (e : ErrCode) (s : State) : (raiseError e s).phase = s.phase := rfl
@[simp] theorem raiseError_resetLine (e : ErrCode) (s : State) : (raiseError e s).resetLine = s.resetLine := rfl
@[simp] theorem raiseError_moves (e : ErrCode) (s : State) : (raiseError e s).moves = s.moves := rfl
@[simp] theorem raiseError_replies (e : ErrCode) (s : State) : (raiseError e s).replies = s.replies := rfl

@[simp] theorem accessError_sym (e : ErrCode) (s : State) : (accessError e s).sym = s.sym := rfl
@[simp] theorem accessError_rsv (e : ErrCode) (s : State) : (accessError e s).rsv = s.rsv := rfl
@[simp] theorem accessError_bday (e : ErrCode) (s : State) : (accessError e s).bday = s.bday := rfl
@[simp] theorem accessError_key (e : ErrCode) (s : State) : (accessError e s).key = s.key := rfl
@[simp] theorem accessError_coin (e : ErrCode) (s : State) : (accessError e s).coin = s.coin := rfl
@[simp] theorem accessError_nwords (e : ErrCode) (s : State) : (accessError e s).nwords = s.nwords := rfl
@[simp] theorem accessError_ermask (e : ErrCode) (s : State) : (accessError e s).ermask = s.ermask := rfl
@[simp] theorem accessError_eridx (e : ErrCode) (s : State) : (accessError e s).eridx = s.eridx := rfl
@[simp] theorem accessError_repl (e : ErrCode) (s : State) : (accessError e s).repl = s.repl := rfl
@[simp] theorem accessError_ie (e : ErrCode) (s : State) : (accessError e s).ie = s.ie := rfl
@[simp] theorem accessError_status (e : ErrCode) (s : State) : (accessError e s).status = raiseRecord e s.status := rfl
@[simp] theorem accessError_phase (e : ErrCode) (s : State) : (accessError e s).phase = s.phase := rfl
@[simp] theorem accessError_resetLine (e : ErrCode) (s : State) : (accessError e s).resetLine = s.resetLine := rfl
@[simp] theorem accessError_moves (e : ErrCode) (s : State) : (accessError e s).moves = s.moves := rfl
@[simp] theorem accessError_replies (e : ErrCode) (s : State) : (accessError e s).replies = s.replies := rfl

@[simp] theorem commandError_sym (e : ErrCode) (s : State) : (commandError e s).sym = s.sym := rfl
@[simp] theorem commandError_rsv (e : ErrCode) (s : State) : (commandError e s).rsv = s.rsv := rfl
@[simp] theorem commandError_bday (e : ErrCode) (s : State) : (commandError e s).bday = s.bday := rfl
@[simp] theorem commandError_key (e : ErrCode) (s : State) : (commandError e s).key = s.key := rfl
@[simp] theorem commandError_coin (e : ErrCode) (s : State) : (commandError e s).coin = s.coin := rfl
@[simp] theorem commandError_nwords (e : ErrCode) (s : State) : (commandError e s).nwords = s.nwords := rfl
@[simp] theorem commandError_ermask (e : ErrCode) (s : State) : (commandError e s).ermask = s.ermask := rfl
@[simp] theorem commandError_eridx (e : ErrCode) (s : State) : (commandError e s).eridx = s.eridx := rfl
@[simp] theorem commandError_repl (e : ErrCode) (s : State) : (commandError e s).repl = s.repl := rfl
@[simp] theorem commandError_ie (e : ErrCode) (s : State) : (commandError e s).ie = s.ie := rfl
@[simp] theorem commandError_status (e : ErrCode) (s : State) : (commandError e s).status = completedRecord (raiseRecord e s.status) := rfl
@[simp] theorem commandError_phase (e : ErrCode) (s : State) : (commandError e s).phase = .idle := rfl
@[simp] theorem commandError_resetLine (e : ErrCode) (s : State) : (commandError e s).resetLine = s.resetLine := rfl
@[simp] theorem commandError_moves (e : ErrCode) (s : State) : (commandError e s).moves = s.moves := rfl
@[simp] theorem commandError_replies (e : ErrCode) (s : State) : (commandError e s).replies = s.replies := rfl

@[simp] theorem issueLegal_sym (op : BitVec 4) (s : State) : (issueLegal op s).sym = s.sym := rfl
@[simp] theorem issueLegal_rsv (op : BitVec 4) (s : State) : (issueLegal op s).rsv = s.rsv := rfl
@[simp] theorem issueLegal_bday (op : BitVec 4) (s : State) : (issueLegal op s).bday = s.bday := rfl
@[simp] theorem issueLegal_key (op : BitVec 4) (s : State) : (issueLegal op s).key = s.key := rfl
@[simp] theorem issueLegal_coin (op : BitVec 4) (s : State) : (issueLegal op s).coin = s.coin := rfl
@[simp] theorem issueLegal_nwords (op : BitVec 4) (s : State) : (issueLegal op s).nwords = s.nwords := rfl
@[simp] theorem issueLegal_ermask (op : BitVec 4) (s : State) : (issueLegal op s).ermask = s.ermask := rfl
@[simp] theorem issueLegal_eridx (op : BitVec 4) (s : State) : (issueLegal op s).eridx = s.eridx := rfl
@[simp] theorem issueLegal_repl (op : BitVec 4) (s : State) : (issueLegal op s).repl = s.repl := rfl
@[simp] theorem issueLegal_ie (op : BitVec 4) (s : State) : (issueLegal op s).ie = s.ie := rfl
@[simp] theorem issueLegal_status (op : BitVec 4) (s : State) : (issueLegal op s).status = issuedRecord s.status := rfl
@[simp] theorem issueLegal_phase (op : BitVec 4) (s : State) : (issueLegal op s).phase = .busy op := rfl
@[simp] theorem issueLegal_resetLine (op : BitVec 4) (s : State) : (issueLegal op s).resetLine = s.resetLine := rfl
@[simp] theorem issueLegal_moves (op : BitVec 4) (s : State) : (issueLegal op s).moves = s.moves := rfl
@[simp] theorem issueLegal_replies (op : BitVec 4) (s : State) : (issueLegal op s).replies = s.replies := rfl

@[simp] theorem writeIclr_sym (v : Word) (s : State) : (writeIclr v s).sym = s.sym := rfl
@[simp] theorem writeIclr_rsv (v : Word) (s : State) : (writeIclr v s).rsv = s.rsv := rfl
@[simp] theorem writeIclr_bday (v : Word) (s : State) : (writeIclr v s).bday = s.bday := rfl
@[simp] theorem writeIclr_key (v : Word) (s : State) : (writeIclr v s).key = s.key := rfl
@[simp] theorem writeIclr_coin (v : Word) (s : State) : (writeIclr v s).coin = s.coin := rfl
@[simp] theorem writeIclr_nwords (v : Word) (s : State) : (writeIclr v s).nwords = s.nwords := rfl
@[simp] theorem writeIclr_ermask (v : Word) (s : State) : (writeIclr v s).ermask = s.ermask := rfl
@[simp] theorem writeIclr_eridx (v : Word) (s : State) : (writeIclr v s).eridx = s.eridx := rfl
@[simp] theorem writeIclr_repl (v : Word) (s : State) : (writeIclr v s).repl = s.repl := rfl
@[simp] theorem writeIclr_ie (v : Word) (s : State) : (writeIclr v s).ie = s.ie := rfl
@[simp] theorem writeIclr_status (v : Word) (s : State) : (writeIclr v s).status = clearRecord v s.status := rfl
@[simp] theorem writeIclr_phase (v : Word) (s : State) : (writeIclr v s).phase = s.phase := rfl
@[simp] theorem writeIclr_resetLine (v : Word) (s : State) : (writeIclr v s).resetLine = s.resetLine := rfl
@[simp] theorem writeIclr_moves (v : Word) (s : State) : (writeIclr v s).moves = s.moves := rfl
@[simp] theorem writeIclr_replies (v : Word) (s : State) : (writeIclr v s).replies = s.replies := rfl

@[simp] theorem resetRegisters_sym (s : State) : (resetRegisters s).sym = State.reset.sym := rfl
@[simp] theorem resetRegisters_rsv (s : State) : (resetRegisters s).rsv = State.reset.rsv := rfl
@[simp] theorem resetRegisters_bday (s : State) : (resetRegisters s).bday = State.reset.bday := rfl
@[simp] theorem resetRegisters_key (s : State) : (resetRegisters s).key = State.reset.key := rfl
@[simp] theorem resetRegisters_coin (s : State) : (resetRegisters s).coin = State.reset.coin := rfl
@[simp] theorem resetRegisters_nwords (s : State) : (resetRegisters s).nwords = State.reset.nwords := rfl
@[simp] theorem resetRegisters_ermask (s : State) : (resetRegisters s).ermask = State.reset.ermask := rfl
@[simp] theorem resetRegisters_eridx (s : State) : (resetRegisters s).eridx = State.reset.eridx := rfl
@[simp] theorem resetRegisters_repl (s : State) : (resetRegisters s).repl = State.reset.repl := rfl
@[simp] theorem resetRegisters_ie (s : State) : (resetRegisters s).ie = State.reset.ie := rfl
@[simp] theorem resetRegisters_status (s : State) : (resetRegisters s).status = State.reset.status := rfl
@[simp] theorem resetRegisters_phase (s : State) : (resetRegisters s).phase = State.reset.phase := rfl
@[simp] theorem resetRegisters_resetLine (s : State) : (resetRegisters s).resetLine = s.resetLine := rfl
@[simp] theorem resetRegisters_moves (s : State) : (resetRegisters s).moves = s.moves := rfl
@[simp] theorem resetRegisters_replies (s : State) : (resetRegisters s).replies = s.replies := rfl

end Sys2Proof.Machine
end

