-- ==== Sys2Proof/Laws/Field.lean ====
section
/-! SUPPORT. The algebra under the commands: `mul2` is additive and injective, `horner` is additive, and changing
one position of a codeword moves `horner` by that change times a power of `x`. -/

namespace Sys2Proof.Machine

theorem gfAdd_def (a b : Sym11) : gfAdd a b = a ^^^ b := rfl

theorem isValid_iff (w : Codeword) : isValid w = true ↔ horner w = 0 := by simp [isValid]

/-! ### The functions at the block's own parameters (R7) -/

@[simp] theorem mulAlpha_eq (a : Sym11) : mulAlpha a = mul2 a := rfl

/-- R125's loop. -/
theorem horner_eq (w : Codeword) : horner w = w.toList.foldl (fun r v => gfAdd (mul2 r) v) 0 := rfl

theorem positionWeight_eq (p : Fin 14) : positionWeight p = gfPow 2 (13 - p.val) := rfl

/-- The check symbol is the last (C1, R22). -/
@[simp] theorem codewordOf_eq (v : PayloadSyms) (x : Sym11) : codewordOf v x = v.push x := by
  have h : (Fin.insertNth (α := fun _ => Sym11) Config.code.checkPos x v.get) = (Fin.snoc v.get x : Fin 14 → Sym11) :=
    Fin.insertNth_last' x v.get
  ext i hi
  simp only [codewordOf, h, Vector.getElem_ofFn, Vector.getElem_push, Fin.snoc]
  split <;> rfl

@[simp] theorem payloadPart_eq (w : Codeword) : payloadPart w = w.pop := by
  ext i hi
  have h : (Config.code.checkPos.succAbove ⟨i, hi⟩ : Fin 14) = Fin.castSucc ⟨i, hi⟩ := Fin.succAbove_last_apply _
  simp [payloadPart, h, Vector.get_eq_getElem]

/-- The check position's power of ALPHA is 1. -/
@[simp] theorem unscale_checkPos (r : Sym11) : unscale r Config.code.checkPos = r := by
  revert r; decide +kernel

/-- R127: `checksym(s) = horner(s[0], ..., s[12], 0)`. -/
theorem checksym_eq (v : PayloadSyms) : checksym v = horner (v.push 0) := by
  simp [checksym]

/-! ### Multiplication by `x` and the evaluation -/

/-- `mul2` as a shift and a conditional reduction. -/
theorem mul2_eq (a : Sym11) : mul2 a = (a <<< 1) ^^^ (if a.msb then 5 else 0) := by
  revert a; decide +kernel

theorem mul2_xor (a b : Sym11) : mul2 (a ^^^ b) = mul2 a ^^^ mul2 b := by
  simp only [mul2_eq, BitVec.msb_xor, BitVec.shiftLeft_xor_distrib]
  generalize a <<< 1 = x
  generalize b <<< 1 = y
  cases a.msb <;> cases b.msb <;> ext i hi <;> simp <;> cases x[i] <;> cases y[i] <;> simp

@[simp] theorem mul2_zero : mul2 0 = 0 := by decide

/-- Multiplication by `x^k`. -/
def shiftBy (k : Nat) (a : Sym11) : Sym11 := mul2^[k] a

@[simp] theorem shiftBy_zero (a : Sym11) : shiftBy 0 a = a := rfl

theorem shiftBy_succ (k : Nat) (a : Sym11) : shiftBy (k + 1) a = mul2 (shiftBy k a) :=
  Function.iterate_succ_apply' mul2 k a

theorem shiftBy_xor (k : Nat) (a b : Sym11) : shiftBy k (a ^^^ b) = shiftBy k a ^^^ shiftBy k b := by
  induction k with
  | zero => rfl
  | succ k ih => rw [shiftBy_succ, ih, mul2_xor, ← shiftBy_succ, ← shiftBy_succ]

@[simp] theorem shiftBy_of_zero (k : Nat) : shiftBy k 0 = 0 := by
  induction k with
  | zero => rfl
  | succ k ih => rw [shiftBy_succ, ih, mul2_zero]

theorem mul2_injective : Function.Injective mul2 := by
  intro a b h
  have key : ∀ d : Sym11, mul2 d = 0 → d = 0 := by decide +kernel
  have hx : mul2 (a ^^^ b) = 0 := by rw [mul2_xor, show mul2 a = mul2 b from h]; exact BitVec.xor_self
  exact BitVec.xor_eq_zero_iff.1 (key _ hx)

theorem shiftBy_injective (k : Nat) : Function.Injective (shiftBy k) := mul2_injective.iterate k

/-- Every symbol is a multiple of `x^k`. -/
theorem shiftBy_surjective (k : Nat) : Function.Surjective (shiftBy k) :=
  Finite.surjective_of_injective (shiftBy_injective k)

/-- The Horner loop from any start: the start moves up by one power of `x` per symbol. -/
theorem hornerFold_start (l : List Sym11) (a : Sym11) :
    l.foldl (fun r v => gfAdd (mul2 r) v) a = shiftBy l.length a ^^^ l.foldl (fun r v => gfAdd (mul2 r) v) 0 := by
  induction l using List.reverseRecOn with
  | nil => simp
  | append_singleton l x ih =>
    simp only [List.foldl_append, List.foldl_cons, List.foldl_nil, List.length_append, List.length_singleton]
    rw [ih, shiftBy_succ, gfAdd_def, gfAdd_def, mul2_xor, BitVec.xor_assoc]

/-- The Horner loop when one symbol of a list is replaced. -/
theorem hornerFold_set (l : List Sym11) (p : Nat) (v : Sym11) (h : p < l.length) :
    (l.set p v).foldl (fun r x => gfAdd (mul2 r) x) 0 =
      shiftBy (l.length - 1 - p) (l[p] ^^^ v) ^^^ l.foldl (fun r x => gfAdd (mul2 r) x) 0 := by
  obtain ⟨a, x, b, rfl, rfl⟩ : ∃ a x b, l = a ++ x :: b ∧ p = a.length := by
    exact ⟨l.take p, l[p], l.drop (p + 1), by simp, by simp [Nat.min_eq_left h.le]⟩
  simp only [List.set_append_right _ _ (Nat.le_refl _), Nat.sub_self, List.set_cons_zero, List.foldl_append,
    List.foldl_cons, List.length_append, List.length_cons, List.getElem_append_right (Nat.le_refl _),
    List.getElem_cons_zero]
  rw [hornerFold_start b, hornerFold_start b (gfAdd _ x)]
  have hk : a.length + (b.length + 1) - 1 - a.length = b.length := by omega
  rw [hk]
  simp only [gfAdd_def, shiftBy_xor]
  generalize shiftBy b.length (mul2 _) = m
  generalize shiftBy b.length v = y
  generalize shiftBy b.length x = z
  generalize List.foldl _ _ b = f
  ext i hi
  simp only [BitVec.getElem_xor]
  cases m[i] <;> cases y[i] <;> cases z[i] <;> cases f[i] <;> rfl

/-- Replacing position `p` moves the evaluation by the change times `x^(13−p)` (R128's reason). -/
theorem horner_set (w : Codeword) (p : Fin 14) (v : Sym11) :
    horner (w.set p v) = shiftBy (13 - p.val) (w.get p ^^^ v) ^^^ horner w := by
  have h := hornerFold_set w.toList p.val v (by simp)
  have hs : (w.set p v).toList = w.toList.set p.val v := Vector.toList_set p.isLt
  rw [horner_eq, horner_eq, hs, h]
  simp [Vector.get_eq_getElem]

/-- The multiplication loop is additive in its second factor. -/
theorem gfMul_fold_xor_right (a b b' : Sym11) (l : List Nat) (r r' : Sym11) :
    l.foldl (fun r k => if (b ^^^ b').getLsbD k then gfAdd (mul2 r) a else mul2 r) (r ^^^ r') =
      l.foldl (fun r k => if b.getLsbD k then gfAdd (mul2 r) a else mul2 r) r ^^^
      l.foldl (fun r k => if b'.getLsbD k then gfAdd (mul2 r) a else mul2 r) r' := by
  induction l generalizing r r' with
  | nil => rfl
  | cons k l ih =>
    simp only [List.foldl_cons]
    rw [← ih]
    congr 1
    simp only [BitVec.getLsbD_xor, gfAdd_def, mul2_xor]
    generalize mul2 r = x
    generalize mul2 r' = y
    cases b.getLsbD k <;> cases b'.getLsbD k <;> ext i hi <;> simp <;>
      cases x[i] <;> cases y[i] <;> cases a[i] <;> rfl

theorem gfMul_xor_right (a b b' : Sym11) : gfMul a (b ^^^ b') = gfMul a b ^^^ gfMul a b' := by
  have := gfMul_fold_xor_right a b b' [10, 9, 8, 7, 6, 5, 4, 3, 2, 1, 0] 0 0
  simpa [gfMul] using this

/-- The multiplication loop is additive in its first factor. -/
theorem gfMul_fold_xor_left (a a' b : Sym11) (l : List Nat) (r r' : Sym11) :
    l.foldl (fun r k => if b.getLsbD k then gfAdd (mul2 r) (a ^^^ a') else mul2 r) (r ^^^ r') =
      l.foldl (fun r k => if b.getLsbD k then gfAdd (mul2 r) a else mul2 r) r ^^^
      l.foldl (fun r k => if b.getLsbD k then gfAdd (mul2 r) a' else mul2 r) r' := by
  induction l generalizing r r' with
  | nil => rfl
  | cons k l ih =>
    simp only [List.foldl_cons]
    rw [← ih]
    congr 1
    simp only [gfAdd_def, mul2_xor]
    generalize mul2 r = x
    generalize mul2 r' = y
    cases b.getLsbD k <;> ext i hi <;> simp <;>
      cases x[i] <;> cases y[i] <;> cases a[i] <;> cases a'[i] <;> rfl

theorem gfMul_xor_left (a a' b : Sym11) : gfMul (a ^^^ a') b = gfMul a b ^^^ gfMul a' b := by
  have := gfMul_fold_xor_left a a' b [10, 9, 8, 7, 6, 5, 4, 3, 2, 1, 0] 0 0
  simpa [gfMul] using this

/-- `f` summed over the powers of `x` that a symbol's bits name. -/
def bitSum (f : Sym11 → Sym11) (b : Sym11) : Sym11 :=
  [0, 1, 2, 3, 4, 5, 6, 7, 8, 9, 10].foldl (fun r k => if b.getLsbD k then r ^^^ f (1 <<< k) else r) 0

theorem bitSum_id (b : Sym11) : bitSum id b = b := by revert b; decide +kernel

/-- Two additive functions that agree on the eleven powers of `x` agree everywhere. -/
theorem additive_ext (f g : Sym11 → Sym11) (hf : ∀ a b, f (a ^^^ b) = f a ^^^ f b)
    (hg : ∀ a b, g (a ^^^ b) = g a ^^^ g b) (h : ∀ k, k < 11 → f (1 <<< k) = g (1 <<< k)) (b : Sym11) :
    f b = g b := by
  have f0 : f 0 = 0 := by have := hf 0 0; simpa using this
  have g0 : g 0 = 0 := by have := hg 0 0; simpa using this
  have key : ∀ (l : List Nat) (r : Sym11), (∀ k ∈ l, k < 11) → f r = g r →
      f (l.foldl (fun r k => if b.getLsbD k then r ^^^ (1 <<< k) else r) r) =
      g (l.foldl (fun r k => if b.getLsbD k then r ^^^ (1 <<< k) else r) r) := by
    intro l
    induction l with
    | nil => intro r _ hr; exact hr
    | cons k l ih =>
      intro r hl hr
      simp only [List.foldl_cons]
      apply ih _ (fun k hk => hl k (List.mem_cons_of_mem _ hk))
      split
      · rw [hf, hg, hr, h k (hl k (List.mem_cons_self))]
      · exact hr
  have := key [0, 1, 2, 3, 4, 5, 6, 7, 8, 9, 10] 0 (by decide) (by rw [f0, g0])
  have hb := bitSum_id b
  simp only [bitSum, id] at hb
  rw [hb] at this
  exact this

/-- Appending a symbol to 13: one more Horner step. -/
theorem horner_push (u : PayloadSyms) (v : Sym11) : horner (u.push v) = checksym u ^^^ v := by
  simp [checksym_eq, horner_eq, Vector.toList_push, gfAdd_def]

/-- A candidate list entry is any symbol. -/
theorem mem_candidates (v : Sym11) : v ∈ candidates := by
  simp only [candidates, List.mem_map, List.mem_range]
  exact ⟨v.toNat, v.isLt, by simp⟩

/-- What the search finds makes the codeword valid. -/
theorem firstValid_some {w : Codeword} {p : Fin 14} {v : Sym11} (h : firstValid w p = some v) :
    horner (w.set p v) = 0 := by
  have := List.find?_some h
  exact (isValid_iff _).1 this

/-- The search fails only where no symbol would do. -/
theorem firstValid_none {w : Codeword} {p : Fin 14} (h : firstValid w p = none) (v : Sym11) :
    horner (w.set p v) ≠ 0 := by
  intro hv
  exact List.find?_eq_none.1 h v (mem_candidates v) ((isValid_iff _).2 hv)

end Sys2Proof.Machine
end

