-- ==== Sys2Proof/Laws/Decode.lean ====
section
/-! SUPPORT. The decoder's parts: a word is its two fields, and the two directions of the opcode map agree. -/

namespace Sys2Proof

theorem CmdFields.toWord_ofWord (w : Word) : (CmdFields.ofWord w).toWord = w := by
  simp only [CmdFields.ofWord, CmdFields.toWord]
  ext i hi
  simp only [BitVec.getElem_append, BitVec.getElem_extractLsb']
  split
  · simp [BitVec.getLsbD_eq_getElem, hi]
  · rw [show 4 + (i - 4) = i by omega, BitVec.getLsbD_eq_getElem hi]

theorem CmdFields.ofWord_toWord (f : CmdFields) : CmdFields.ofWord f.toWord = f := by
  cases f with
  | mk m o =>
    simp only [CmdFields.ofWord, CmdFields.toWord, CmdFields.mk.injEq]
    constructor
    · ext i hi
      have h : ¬ 4 + i < 4 := by omega
      rw [BitVec.getElem_extractLsb', BitVec.getLsbD_append, if_neg h, Nat.add_sub_cancel_left,
        BitVec.getLsbD_eq_getElem hi]
    · ext i hi
      rw [BitVec.getElem_extractLsb', Nat.zero_add, BitVec.getLsbD_append, if_pos hi,
        BitVec.getLsbD_eq_getElem hi]

theorem opcodeInstr_eq_some_iff (op : BitVec 4) (i : Instr) : opcodeInstr op = some i ↔ op = i.opcode := by
  revert op; cases i <;> decide

theorem opcodeInstr_isSome_iff (op : BitVec 4) : (opcodeInstr op).isSome = true ↔ op.toNat < 11 := by
  revert op; decide

theorem opcode_lt (i : Instr) : i.opcode.toNat < 11 := by cases i <;> decide

/-- Decoding in terms of the two fields. -/
theorem decode_toWord (f : CmdFields) :
    decode f.toWord =
      if f.mbz = 0 then
        match opcodeInstr f.op with
        | some i => .ok i
        | none   => .error (.reservedOpcode f.op)
      else .error (.reservedBitsSet f.mbz) := by
  cases h : opcodeInstr f.op <;> simp only [decode, CmdFields.ofWord_toWord, h]

/-- A word is legal exactly when both checks of its fields pass (R93). -/
theorem decode_isOk_iff_wf (w : Word) : (decode w).toOption.isSome = true ↔ (CmdFields.ofWord w).wf = true := by
  have h : ∀ f : CmdFields, (decode f.toWord).toOption.isSome = true ↔ f.wf = true := by
    intro f
    rw [decode_toWord]
    have ho := opcodeInstr_isSome_iff f.op
    simp only [CmdFields.wf, CmdFields.mbzClear, CmdFields.opDefined, Bool.and_eq_true, beq_iff_eq,
      decide_eq_true_eq, ← ho]
    split
    · rename_i hm
      cases h : opcodeInstr f.op <;> simp [hm, Except.toOption]
    · rename_i hm
      exact ⟨fun h => by simp [Except.toOption] at h, fun h => absurd h.1 hm⟩
  simpa only [CmdFields.toWord_ofWord] using h (CmdFields.ofWord w)

/-- The OP latch, widened to a command word, decodes as the opcode map says. -/
theorem decode_latch (op : BitVec 4) (i : Instr) : decode (op.setWidth 32) = .ok i ↔ op = i.opcode := by
  revert op; cases i <;> decide

end Sys2Proof
end

