-- ==== Sys2Proof/Laws/Ops.lean ====
section
/-! SUPPORT. What each shared operation can do, said once: the register map, one access by its kind, the reset
input, one command, one step. -/

namespace Sys2Proof.Machine

/-! ### The register map -/

theorem regAt_regOffset (r : Reg) : regAt (regOffset r) = some r := by
  cases r <;> first | rfl | (rename_i n; revert n; decide)

theorem regOffset_of_regAt {off : Offset} {r : Reg} (h : regAt off = some r) : off = regOffset r := by
  have hb : (regOffset r == off) = true := List.find?_some (p := fun r => regOffset r == off) h
  exact (beq_iff_eq.1 hb).symm

@[simp] theorem supported_regOffset (r : Reg) : supported (regOffset r) 32 = true := by
  cases r <;> first | rfl | (rename_i n; revert n; decide)

theorem supported_iff (off : Offset) (bits : Nat) :
    supported off bits = true ↔ bits = 32 ∧ off.toNat % 4 = 0 := by
  simp [supported]

/-! ### One access -/

theorem regRead_reg (r : Reg) (s : State) : regRead (regOffset r) 32 s = (regValue s r, s) := by
  simp [regRead, regAt_regOffset]

theorem regRead_unsupported {off : Offset} {bits : Nat} (h : supported off bits = false) (s : State) :
    regRead off bits s = (0, accessError .badAccess s) := by
  simp [regRead, h]

theorem regRead_reserved {off : Offset} (h : regAt off = none) (hs : supported off 32 = true) (s : State) :
    regRead off 32 s = (0, s) := by
  simp [regRead, h, hs]

theorem regWrite_unsupported {off : Offset} {bits : Nat} (h : supported off bits = false) (v : Word) (s : State) :
    regWrite off bits v s = accessError .badAccess s := by
  simp [regWrite, h]

theorem regWrite_reserved {off : Offset} (h : regAt off = none) (hs : supported off 32 = true) (v : Word)
    (s : State) : regWrite off 32 v s = s := by
  simp [regWrite, h, hs]

theorem regWrite_readOnly {r : Reg} (h : regAccess r = .readOnly) (v : Word) (s : State) :
    regWrite (regOffset r) 32 v s = s := by
  simp [regWrite, regAt_regOffset, h]

theorem regWrite_iclr (v : Word) (s : State) : regWrite (regOffset .iclr) 32 v s = writeIclr v s := by
  simp [regWrite, regAt_regOffset, show regAccess .iclr ≠ .readOnly by decide]

theorem regWrite_busy {r : Reg} {op : BitVec 4} {s : State} (hr : regAccess r ≠ .readOnly) (hi : r ≠ .iclr)
    (hp : s.phase = .busy op) (v : Word) : regWrite (regOffset r) 32 v s = accessError .busyWrite s := by
  simp [regWrite, regAt_regOffset, hr, hi, hp]

theorem regWrite_cmd_idle {s : State} (hp : s.phase = .idle) (w : Word) :
    regWrite (regOffset .cmd) 32 w s = issue w s := by
  simp [regWrite, regAt_regOffset, hp, show regAccess .cmd ≠ .readOnly by decide]

theorem regWrite_store_idle {r : Reg} {s : State} (hr : regAccess r = .readWrite) (hp : s.phase = .idle) (v : Word) :
    regWrite (regOffset r) 32 v s = regStore s v r := by
  have h1 : r ≠ .iclr := by rintro rfl; cases hr
  have h2 : r ≠ .cmd := by rintro rfl; cases hr
  simp [regWrite, regAt_regOffset, hp, hr, h1, h2]

/-- Everything a write can do to the state. -/
theorem regWrite_cases (off : Offset) (bits : Nat) (v : Word) (s : State) :
    regWrite off bits v s = s ∨ regWrite off bits v s = accessError .badAccess s ∨
    regWrite off bits v s = writeIclr v s ∨
    ((∃ op, s.phase = .busy op) ∧ regWrite off bits v s = accessError .busyWrite s) ∨
    (s.phase = .idle ∧ regWrite off bits v s = issue v s) ∨
    (s.phase = .idle ∧ ∃ r, regAccess r = .readWrite ∧ regWrite off bits v s = regStore s v r) := by
  cases hs : supported off bits with
  | false => exact .inr (.inl (regWrite_unsupported hs v s))
  | true =>
    obtain ⟨rfl, -⟩ := (supported_iff off bits).1 hs
    cases hr : regAt off with
    | none => exact .inl (regWrite_reserved hr hs v s)
    | some r =>
      obtain rfl := regOffset_of_regAt hr
      cases ha : regAccess r with
      | readOnly => exact .inl (regWrite_readOnly ha v s)
      | writeOnly =>
        have : r = .cmd ∨ r = .iclr := by cases r <;> simp_all [regAccess]
        obtain rfl | rfl := this
        · cases hp : s.phase with
          | idle => exact .inr (.inr (.inr (.inr (.inl ⟨rfl, regWrite_cmd_idle hp v⟩))))
          | busy op => exact .inr (.inr (.inr (.inl ⟨⟨op, rfl⟩, regWrite_busy (by decide) (by decide) hp v⟩)))
        · exact .inr (.inr (.inl (regWrite_iclr v s)))
      | readWrite =>
        have hi : r ≠ .iclr := by rintro rfl; cases ha
        cases hp : s.phase with
        | idle => exact .inr (.inr (.inr (.inr (.inr ⟨rfl, r, ha, regWrite_store_idle ha hp v⟩))))
        | busy op =>
          exact .inr (.inr (.inr (.inl ⟨⟨op, rfl⟩, regWrite_busy (by rw [ha]; decide) hi hp v⟩)))

/-- Everything a read can do to the state, besides its reply. -/
theorem regRead_cases (off : Offset) (bits : Nat) (s : State) :
    (regRead off bits s).2 = s ∨ (regRead off bits s).2 = accessError .badAccess s := by
  simp only [regRead]
  split
  · split <;> exact .inl rfl
  · exact .inr rfl

theorem serve_read {s : State} (h : s.resetLine = false) (off : Offset) (bits : Nat) :
    serve (.read off bits) s = (regRead off bits s).2.pushReply (regRead off bits s).1 := by
  simp [serve, h]

theorem serve_write {s : State} (h : s.resetLine = false) (off : Offset) (bits : Nat) (v : Word) :
    serve (.write off bits v) s = regWrite off bits v s := by
  simp [serve, h]

theorem serve_read_reg {s : State} (h : s.resetLine = false) (r : Reg) :
    serve (.read (regOffset r) 32) s = s.pushReply (regValue s r) := by
  rw [serve_read h, regRead_reg]

theorem serve_read_in_reset {s : State} (h : s.resetLine = true) (off : Offset) (bits : Nat) :
    serve (.read off bits) s = s.pushReply 0 := by
  simp [serve, h]

theorem serve_write_in_reset {s : State} (h : s.resetLine = true) (off : Offset) (bits : Nat) (v : Word) :
    serve (.write off bits v) s = s := by
  simp [serve, h]

/-! ### Issue -/

theorem issue_ok {w : Word} {i : Instr} (h : decode w = .ok i) (s : State) : issue w s = issueLegal i.opcode s := by
  simp [issue, h]

theorem issue_error {w : Word} {e : DecodeError} (h : decode w = .error e) (s : State) :
    issue w s = issueIllegal s := by
  simp [issue, h]

/-! ### Flagging and erasures -/

theorem unflagWord_flagWord (w : Codeword) (coin : Sym11) : unflagWord (flagWord w coin) coin = w := by
  ext i hi
  simp only [unflagWord, flagWord, flagSym, unflagSym, Config.code, Vector.get_eq_getElem, add11, sub11]
  by_cases h : i = 1
  · subst h; simp
  · simp only [Vector.getElem_set, Fin.isValue, Fin.coe_ofNat_eq_mod, Nat.one_mod, Ne.symm h, if_false]

theorem flagWord_unflagWord (w : Codeword) (coin : Sym11) : flagWord (unflagWord w coin) coin = w := by
  ext i hi
  simp only [unflagWord, flagWord, flagSym, unflagSym, Config.code, Vector.get_eq_getElem, add11, sub11]
  by_cases h : i = 1
  · subst h; simp
  · simp only [Vector.getElem_set, Fin.isValue, Fin.coe_ofNat_eq_mod, Nat.one_mod, Ne.symm h, if_false]

theorem mem_erasures (m : BitVec 14) (p : Fin 14) : p ∈ erasures m ↔ m.getLsbD p = true := by
  simp [erasures]

theorem erasures_single (p : Fin 14) : erasures (1#14 <<< p.val) = [p] := by
  revert p; decide

@[simp] theorem erasures_zero : erasures 0 = [] := by decide

/-! ### One command -/

/-- The model's own fields and the reset input, which no command touches. -/
def SameFrame (s t : State) : Prop := t.resetLine = s.resetLine ∧ t.moves = s.moves ∧ t.replies = s.replies

theorem repairAt_some {p : Fin 14} {s : State} {v : Sym11} (h : firstValid s.sym p = some v) :
    repairAt p s = ((s.setSym (s.sym.set p v)).setRepl v).setStatus (validRecord true s.status) := by
  rw [repairAt, h]; rfl

theorem repairAt_none {p : Fin 14} {s : State} (h : firstValid s.sym p = none) :
    repairAt p s = s.setStatus (validRecord false s.status) := by
  rw [repairAt, h]; rfl

theorem repairAt_frame (p : Fin 14) (s : State) : SameFrame s (repairAt p s) := by
  cases h : firstValid s.sym p with
  | none => rw [repairAt_none h]; exact ⟨rfl, rfl, rfl⟩
  | some v => rw [repairAt_some h]; exact ⟨rfl, rfl, rfl⟩

theorem decodeCommit_frame (o : ParseOutcome) (e : Bool) (w : Codeword) (s : State) :
    SameFrame s (decodeCommit o e w s) := by
  cases h : isValid w <;> simp only [decodeCommit, h] <;> exact ⟨rfl, rfl, rfl⟩

theorem decodeErased_some {p : Fin 14} {w : Codeword} {v : Sym11} (h : firstValid w p = some v) (s : State) :
    decodeErased p w s =
      decodeCommit .repaired true (w.set p v)
        ((s.setEridx (BitVec.ofNat 4 p)).setRepl (replacement p v s.coin)) := by
  rw [decodeErased, h]; rfl

theorem decodeErased_none {p : Fin 14} {w : Codeword} (h : firstValid w p = none) (s : State) :
    decodeErased p w s = decodeCommit .repaired true w (s.setEridx (BitVec.ofNat 4 p)) := by
  rw [decodeErased, h]; rfl

theorem decodeErased_frame (p : Fin 14) (w : Codeword) (s : State) : SameFrame s (decodeErased p w s) := by
  cases h : firstValid w p with
  | none => rw [decodeErased_none h]; exact decodeCommit_frame _ _ _ _
  | some v => rw [decodeErased_some h]; exact decodeCommit_frame _ _ _ _

/-- DECODE's four ways (R192). -/
theorem decodeStage_cases (s : State) :
    (s.nwords.toNat < 14 ∧ decodeStage s = decodeStop .notEnoughWords s) ∨
    (s.nwords.toNat > 14 ∧ decodeStage s = decodeStop .tooManyWords s) ∨
    (s.nwords.toNat = 14 ∧ 2 ≤ (erasures s.ermask).length ∧
      decodeStage s = decodeStop .tooManyUnrecognizedWords s) ∨
    (s.nwords.toNat = 14 ∧ (∃ p, erasures s.ermask = [p] ∧
      decodeStage s = decodeErased p (unflagWord s.sym s.coin) s)) ∨
    (s.nwords.toNat = 14 ∧ erasures s.ermask = [] ∧
      decodeStage s = decodePlain (unflagWord s.sym s.coin) s) := by
  unfold decodeStage
  split
  · exact .inl ⟨‹_›, rfl⟩
  · split
    · exact .inr (.inl ⟨‹_›, rfl⟩)
    · have hn : s.nwords.toNat = 14 := by omega
      split
      · exact .inr (.inr (.inr (.inr ⟨hn, ‹_›, rfl⟩)))
      · exact .inr (.inr (.inr (.inl ⟨hn, _, ‹_›, rfl⟩)))
      · rename_i a b l hl
        exact .inr (.inr (.inl ⟨hn, by rw [hl]; simp, rfl⟩))

theorem decodeStage_frame (s : State) : SameFrame s (decodeStage s) := by
  obtain ⟨-, h⟩ | ⟨-, h⟩ | ⟨-, -, h⟩ | ⟨-, p, -, h⟩ | ⟨-, -, h⟩ := decodeStage_cases s <;> rw [h]
  · exact ⟨rfl, rfl, rfl⟩
  · exact ⟨rfl, rfl, rfl⟩
  · exact ⟨rfl, rfl, rfl⟩
  · exact decodeErased_frame _ _ _
  · exact decodeCommit_frame _ _ _ _

/-- The check symbol makes 13 payload symbols a valid codeword, so the self-check holds (R202). -/
@[simp] theorem selfCheck_eq (s : State) : selfCheck s = true := by
  rw [selfCheck, isValid_iff, formatWord, unflagWord_flagWord, codewordOf_eq, horner_push]
  exact BitVec.xor_self

theorem execEncode_eq (s : State) : execEncode s = .next (complete (encodeStage s)) := by
  rw [execEncode, selfCheck_eq, if_pos rfl]

/-- Every command ends in a completion, whatever it stages, and leaves the frame alone. -/
theorem exec_completes (i : Instr) (s : State) : ∃ u, exec i s = .next (complete u) ∧ SameFrame s u := by
  cases i with
  | repair =>
    cases h : eridxPos s.eridx with
    | none => exact ⟨raiseError .badEridx s, by simp only [exec, execRepair, h, commandError], rfl, rfl, rfl⟩
    | some p => exact ⟨repairAt p s, by simp only [exec, execRepair, h], repairAt_frame p s⟩
  | encode =>
    exact ⟨encodeStage s, execEncode_eq s, rfl, rfl, rfl⟩
  | decode => exact ⟨_, rfl, decodeStage_frame s⟩
  | _ => exact ⟨_, rfl, rfl, rfl, rfl⟩

/-! ### One step -/

/-- Everything a step that answers next can have done. -/
theorem step_cases {s t : State} (h : step s = .next t) :
    t = (fetch s).2 ∨
    (∃ i, s.resetLine = false ∧ s.phase = .busy i.opcode ∧ exec i (fetch s).2 = .next t) ∨
    (∃ a, t = serve a (fetch s).2) ∨ (∃ b, t = driveReset b (fetch s).2) := by
  have he : ∀ i, engineWork s = .command i → s.resetLine = false ∧ s.phase = .busy i.opcode := by
    intro i hi
    simp only [engineWork] at hi
    split at hi
    · cases hi
    · rename_i hr
      split at hi
      · cases hi
      · rename_i op hp
        split at hi
        · rename_i j hj
          cases hi
          exact ⟨by simpa using hr, by rw [hp, (decode_latch op _).1 hj]⟩
        · cases hi
  have hf : ∀ i, (fetch s).1 = .command i → engineWork s = .command i := by
    intro i hi
    simp only [fetch] at hi
    split at hi <;> first | exact hi | cases hi
  simp only [step] at h
  split at h
  · cases h; exact .inl rfl
  · rename_i i hi
    exact .inr (.inl ⟨i, (he i (hf i hi)).1, (he i (hf i hi)).2, h⟩)
  · cases h
  · rename_i a ha
    cases h; exact .inr (.inr (.inl ⟨a, rfl⟩))
  · rename_i b hb
    cases h; exact .inr (.inr (.inr ⟨b, rfl⟩))

/-- Taking the next move changes nothing but the moves. -/
theorem fetch_state (s : State) : ∃ m, (fetch s).2 = s.setMoves m := by
  simp only [fetch]
  split
  · exact ⟨s.moves, rfl⟩
  all_goals exact ⟨_, rfl⟩

end Sys2Proof.Machine
end

