-- ==== Sys2Proof/Laws/PerInstr.lean ====
section
/-! SUPPORT. Statements about every command as syntax, one lemma per constructor. Family OpcodeRow: the command's
row of the opcode table (R92) and its assembly text (R98). -/

namespace Sys2Proof.Laws.OpcodeRow

/-- The command word is the zero-extended opcode and well formed, it decodes to the command, the table's view of
the decoder agrees, and the mnemonic names the command. -/
def Statement (i : Instr) : Prop :=
  i.wf = true ∧ encode i = i.opcode.setWidth 32 ∧ (CmdFields.ofWord (encode i)).wf = true ∧
  Sys2Proof.decode (encode i) = .ok i ∧ decodeTableWord 32 (encode i).toNat = some i ∧
  Instr.ofMnemonic i.mnemonic = some i

theorem nop : Statement .nop := by simp only [Statement]; decide
theorem pack : Statement .pack := by simp only [Statement]; decide
theorem unpack : Statement .unpack := by simp only [Statement]; decide
theorem genchk : Statement .genchk := by simp only [Statement]; decide
theorem verify : Statement .verify := by simp only [Statement]; decide
theorem flag : Statement .flag := by simp only [Statement]; decide
theorem unflag : Statement .unflag := by simp only [Statement]; decide
theorem repair : Statement .repair := by simp only [Statement]; decide
theorem decode : Statement .decode := by simp only [Statement]; decide
theorem encode : Statement .encode := by simp only [Statement]; decide
theorem srst : Statement .srst := by simp only [Statement]; decide

end Sys2Proof.Laws.OpcodeRow
end

