-- ==== Sys2Proof/Tests/Slice0.lean ====
section
/-! SUPPORT. Tests with results taken from the spec's own vectors (95_test_vectors.md; each names its vector or
rule), and for each statement with hypotheses a state that meets them together. -/

namespace Sys2Proof.Tests

open Sys2Proof.Machine Sys2Proof.Statements

/-- The state a command's completion leaves. -/
def after (i : Instr) (s : State) : State :=
  match exec i s with
  | .next t => t
  | _ => s

/-- The state after the listed moves. -/
def afterMoves (ms : List Move) (s : State) : State :=
  match Host.Core.run core ms.length (s.setMoves ms) with
  | .next t => t
  | _ => s

/-- L-1 in the codeword domain. -/
def cw1 : Codeword := #v[2, 860, 1695, 214, 861, 1425, 966, 147, 63, 76, 969, 211, 997, 1372]
/-- L-1 in the text domain. -/
def text1 : Codeword := #v[2, 1571, 1695, 214, 861, 1425, 966, 147, 63, 76, 969, 211, 997, 1372]
/-- L-1's key-seed. -/
def key1 : BitVec 128 := 0xb9a7c6b35db22f184983f098f2469be5

/-- Reset, with SYM loaded. -/
def withSym (w : Codeword) : State := State.reset.setSym w
/-- Reset, ready for a parse of `w` under `coin`. -/
def parseOf (n : BitVec 16) (m : BitVec 14) (coin : Sym11) (w : Codeword) : State :=
  (((withSym w).setCoin coin).setNwords n).setErmask m
/-- Reset, with the Seed fields and COIN loaded. -/
def seedOf (r : BitVec 5) (b : BitVec 10) (k : BitVec 128) (coin : Sym11) : State :=
  (State.reset.setSeed r b k).setCoin coin
/-- Reset, with command `i` issued. -/
def busyWith (i : Instr) : State := issueLegal i.opcode State.reset

/-! ### Well-formedness: one ill-formed term per check, refused -/

theorem test_wf_accepts : (CmdFields.mk 0 0xA).wf = true := by decide
theorem test_wf_refuses_reserved_bits : (CmdFields.mk 1 0x0).wf = false := by decide
theorem test_wf_refuses_top_reserved_bit : (CmdFields.mk 0x8000000 0x0).wf = false := by decide
theorem test_wf_refuses_reserved_opcode : (CmdFields.mk 0 0xB).wf = false := by decide
theorem test_wf_instr : Instr.all.all Instr.wf = true := by decide

/-! ### Decoding: the words of R90 and R92, bit by bit -/

theorem test_decode_nop : decode 0b00000000000000000000000000000000 = .ok .nop := by decide
theorem test_decode_pack : decode 0b00000000000000000000000000000001 = .ok .pack := by decide
theorem test_decode_unpack : decode 0b00000000000000000000000000000010 = .ok .unpack := by decide
theorem test_decode_genchk : decode 0b00000000000000000000000000000011 = .ok .genchk := by decide
theorem test_decode_verify : decode 0b00000000000000000000000000000100 = .ok .verify := by decide
theorem test_decode_flag : decode 0b00000000000000000000000000000101 = .ok .flag := by decide
theorem test_decode_unflag : decode 0b00000000000000000000000000000110 = .ok .unflag := by decide
theorem test_decode_repair : decode 0b00000000000000000000000000000111 = .ok .repair := by decide
theorem test_decode_decode : decode 0b00000000000000000000000000001000 = .ok .decode := by decide
theorem test_decode_encode : decode 0b00000000000000000000000000001001 = .ok .encode := by decide
theorem test_decode_srst : decode 0b00000000000000000000000000001010 = .ok .srst := by decide
theorem test_decode_reserved : decode 0b00000000000000000000000000001011 = .error (.reservedOpcode 0xB) := by decide
theorem test_decode_mbz : decode 0b00000000000000000000000000010001 = .error (.reservedBitsSet 1) := by decide
theorem test_table_word : decodeTableWord 32 0x7 = some .repair ∧ decodeTableWord 32 0x10 = none := by decide
theorem test_mnemonic : Instr.ofMnemonic "SRST" = some .srst ∧ Instr.ofMnemonic "srst" = none := by decide

/-- The very next step after `withFetchWord` runs the command, from reset. -/
theorem test_fetch_word_runs :
    Instr.all.all (fun i =>
      match step (State.reset.withFetchWord 32 (encode i).toNat) with
      | .next t => t.phase == .idle && t.status.done
      | _ => false) = true := by decide +kernel

/-! ### The field and the code: V-GF-1, 2, 4, 8, 9, 10, 11 -/

theorem test_mul2 : [0, 1, 1023, 1024, 1025, 1026, 2047].map (mul2 ·) = [0, 2, 2046, 5, 7, 1, 2043] := by decide
theorem test_gfMul : gfMul 3 7 = 9 ∧ gfMul 1024 2 = 5 ∧ gfMul 2047 2047 = 1362 := by decide +kernel
theorem test_alpha_powers : gfPow 2 11 = 5 ∧ gfPow 2 13 = 20 ∧ gfInv 2 = 1026 := by decide +kernel
theorem test_checksym : checksym #v[1, 2, 3, 4, 5, 6, 7, 8, 9, 10, 11, 12, 13] = 1138 ∧
    checksym (Vector.replicate 13 2047) = 649 := by decide +kernel
theorem test_horner : horner text1 = 274 ∧ horner cw1 = 0 ∧ codewordSum text1 = 274 := by decide +kernel
/-- D4, C2, N2: the readings the spec rejects, with its own numbers: the exclusive-or and the other coin flag give
vector 1 another word 1, and the evaluation at 1 does not validate it. -/
theorem test_other_parameters :
    flagSym 860 0x539 = 1571 ∧ flagSym 860 0x539 { Config.code with flagOp := .exclusiveOr } = 1637 ∧
    flagSym 860 0x201 { Config.code with flagOp := .exclusiveOr } = 349 ∧ flagSym 860 0x201 = 347 ∧
    isValid cw1 = true ∧ isValid cw1 { Config.code with alpha := 1 } = false := by decide +kernel
/-- Every parameter at another value (x^11 + x^9 + 1, the reciprocal polynomial; ALPHA = 3): ENCODE's symbols still pass
the self-check, as R202 argues for any such code, and the payload comes back. -/
theorem test_other_record :
    let code : CodeParams :=
      { gfPoly := 0xA01, alpha := 3, checkPos := 5, coeffOrder := .ascending, flagPos := 9,
        flagOp := .exclusiveOr, coinBits := 9 }
    selfCheck (seedOf 7 38 key1 0x539) code = true ∧ selfCheck (seedOf 31 1023 key1 0x201) code = true ∧
    payloadPart (codewordOf cw1.pop 99 code) code = cw1.pop ∧ (codewordOf cw1.pop 99 code).get 5 = 99 ∧
    (regStore State.reset 0x7FF .coin code).coin = 0x1FF := by decide +kernel
theorem test_closed_form : repairValue (cw1.set 7 0) 7 = 147 ∧ repairValue (cw1.set 0 0) 0 = 2 := by decide +kernel

/-! ### The commands -/

/-- V-CT-1. -/
theorem test_nop : statusWord (after .nop (State.reset.setStatus { Status.reset with valid := true })).status = 0x6 := by
  decide
/-- V-PK-1. -/
theorem test_pack : (after .pack (seedOf 0 38 key1 0)).sym = cw1.set 13 0 ∧
    statusWord (after .pack (seedOf 0 38 key1 0)).status = 0x2 := by decide +kernel
/-- V-PK-3: the top bits of the payload. -/
theorem test_pack_edges : ((after .pack (seedOf 16 1 0 0)).sym.get 0, (after .pack (seedOf 16 1 0 0)).sym.get 1) =
    ((1024 : Sym11), (128 : Sym11)) := by decide +kernel
/-- V-PK-2. -/
theorem test_unpack : (after .unpack (withSym cw1)).key = key1 ∧ (after .unpack (withSym cw1)).bday = 38 := by
  decide +kernel
/-- V-PK-8: a symbol still flagged unpacks to wrong fields, without an error. -/
theorem test_unpack_flagged : (after .unpack (withSym text1)).bday = 44 ∧
    (after .unpack (withSym text1)).key = 0x47a7c6b35db22f184983f098f2469be5 := by decide +kernel
/-- V-CK-1. -/
theorem test_genchk : (after .genchk (withSym (cw1.set 13 5))).sym = cw1 := by decide +kernel
/-- V-CK-2: only SYM0 = 1. -/
theorem test_genchk_first : (after .genchk (withSym ((Vector.replicate 14 0).set 0 1))).sym.get 13 = 20 := by
  decide +kernel
/-- V-CK-3, V-CK-4. -/
theorem test_verify : statusWord (after .verify (withSym cw1)).status = 0x6 ∧
    statusWord (after .verify (withSym (cw1.set 13 1373))).status = 0x2 := by decide +kernel
/-- V-RP-3. -/
theorem test_repair : (after .repair ((withSym (cw1.set 2 0)).setEridx 2)).sym = cw1 ∧
    (after .repair ((withSym (cw1.set 2 0)).setEridx 2)).repl = 1695 := by decide +kernel
/-- V-RP-4. -/
theorem test_repair_bad_eridx : statusWord (after .repair (State.reset.setEridx 14)).status = 0x382 := by decide +kernel
/-- V-FL-1, V-FL-2. -/
theorem test_flag : (after .flag ((withSym cw1).setCoin 0x539)).sym = text1 ∧
    (after .flag ((withSym (cw1.set 1 0)).setCoin 0x539)).sym.get 1 = 711 := by decide +kernel
/-- V-FL-3, V-FL-4. -/
theorem test_unflag : (after .unflag ((withSym text1).setCoin 0x539)).sym = cw1 ∧
    (after .unflag ((withSym (text1.set 1 2047)).setCoin 1)).sym.get 1 = 0 := by decide +kernel
/-- V-DC-4, V-DC-13. -/
theorem test_decode_plain : statusWord (after .decode (parseOf 14 0 0x539 text1)).status = 0x5E ∧
    statusWord (after .decode (parseOf 13 3 0x539 text1)).status = 0x12 := by decide +kernel
/-- V-DC-6: the erasure at the flagged position; REPL is in the text domain. -/
theorem test_decode_erased : statusWord (after .decode (parseOf 14 2 0x539 (text1.set 1 0))).status = 0x204E ∧
    (after .decode (parseOf 14 2 0x539 (text1.set 1 0))).repl = 1571 ∧
    (after .decode (parseOf 14 2 0x539 (text1.set 1 0))).sym = cw1 := by decide +kernel
/-- V-EN-1. -/
theorem test_encode : (after .encode (seedOf 0 38 key1 0x539)).sym = text1 ∧
    statusWord (after .encode (seedOf 0 38 key1 0x539)).status = 0x6 := by decide +kernel
/-- V-EN-3: the largest fields. -/
theorem test_encode_max : (after .encode (seedOf 31 1023 (BitVec.allOnes 128) 0x539)).sym =
    ((Vector.replicate 14 2047).set 1 710).set 13 649 := by decide +kernel
/-- V-CT-2. -/
theorem test_srst : after .srst (parseOf 14 2 0x539 text1) =
    { State.reset with status := { Status.reset with done := true } } := by decide +kernel

/-! ### Accesses and runs -/

/-- V-AC-1 to V-AC-4: truncation, reserved and write-only reads, ignored writes (replies: the latest first). -/
theorem test_accesses :
    (afterMoves [wrMove .coin 0xFFFF, rdMove .coin, wrMove .rsv 0x25, rdMove .rsv, .access (.read 0x100 32),
      rdMove .cmd, rdMove .iclr, wrMove .status 0xFFFFFFFF, wrMove .id 0, rdMove .status, rdMove .id]
      State.reset).replies = [0x010B0E01, 0, 0, 0, 0, 5, 0x7FF] := by decide +kernel
/-- V-ER-1 to V-ER-3. -/
theorem test_errors :
    (afterMoves [wrMove .cmd 0xB, rdMove .status, wrMove .cmd 0x11, rdMove .status, wrMove .iclr 3, rdMove .status]
      State.reset).replies = [0, 0x1182, 0x182] := by decide +kernel
/-- V-ER-4b: an 8-bit read. -/
theorem test_narrow_read :
    (afterMoves [.access (.read 0x008 8), rdMove .status]
      (State.reset.setStatus (completedRecord Status.reset))).replies = [0x582, 0] := by decide +kernel
/-- V-ER-5 (a): the write is served while BUSY. -/
theorem test_busy_write :
    (afterMoves [wrMove .cmd 0, wrMove (.sym 0) 5, rdMove .status, .engine, rdMove .status, rdMove (.sym 0)]
      State.reset).replies = [0, 0x282, 0x281] := by decide +kernel
/-- V-ER-5 (b): NOP completes first. -/
theorem test_busy_write_after :
    (afterMoves [wrMove .cmd 0, .engine, wrMove (.sym 0) 5, rdMove .status, rdMove (.sym 0)]
      State.reset).replies = [5, 2] := by decide +kernel
/-- P2's reads: the pre-command value while BUSY, then the results; irq at the completion, 0 after `clr`. -/
theorem test_program_2 :
    irq (afterMoves (expandAll [.wr .ctrl 1, .cmd .nop] ++ [.engine]) State.reset) = true ∧
    (afterMoves (expandAll (hostInit 0x539 true true false false ++ [.ldsym (text1.set 2 0x7FF), .wr .nwords 14, .wr .ermask 4,
      .cmd .decode, .rd .status, .rd (.sym 2)]) ++ [.engine] ++ expandAll [.rd .status, .rd .eridx, .rd .repl,
      .rd .bday, .rd (.key 0), .clr, .rd .status]) State.reset).replies =
      [0x204C, 0xB9A7C6B3, 38, 1695, 2, 0x204E, 0x7FF, 1, 0x010B0E01] := by decide +kernel
/-- R284: the steps after an SRST without the optional read of ID and with steps 2 and 3 swapped; the DONE that SRST
leaves is cleared. -/
theorem test_host_init :
    (afterMoves (expandAll (hostInit 0x539 false true true true ++ [.rd .coin, .rd .ctrl, .rd .status]))
      (after .srst State.reset)).replies = [0, 1, 0x539] ∧
    hostInit 0x539 false true true true = [.wr .ctrl 1, .wr .coin 0x539, .wr .iclr 1] := by decide +kernel
/-- R66: the lanes of one word in the default order, and under a big-endian platform's convention. -/
theorem test_byte_lanes :
    (List.finRange 4).map (byteLane 0x010B0E01 ·) = [0x01, 0x0E, 0x0B, 0x01] ∧
    (List.finRange 4).map (byteLane 0x11223344 · .big) = [0x11, 0x22, 0x33, 0x44] := by decide
/-- R280: a running command is abandoned and accesses during the reset are ignored. -/
theorem test_reset_line :
    (afterMoves [wrMove .coin 7, wrMove .cmd 7, .reset true, rdMove .id, wrMove .coin 4, .engine, .reset false,
      rdMove .id, rdMove .status, rdMove .coin] State.reset).replies = [0, 0, 0x010B0E01, 0] := by decide +kernel
/-- R293: three lookups that fail or succeed, and a word count that must not wrap. -/
theorem test_host_parse : hostErasureMask [some 2, none, some 3] = 2 ∧ hostWordCount 65550 = 65535 := by
  decide +kernel

/-! ### Witnesses: states that meet a statement's hypotheses, at the ends of its ranges -/

theorem witness_OpcodeMap : decode (encode .srst) = .ok .srst := by decide
theorem witness_DecodeAccepts : decode 0xA = .ok .srst ∧ decode 0xB = .error (.reservedOpcode 0xB) := by decide
theorem witness_IllegalWord :
    State.reset.resetLine = false ∧ State.reset.phase = .idle ∧
    decode 0x0000000F = .error (.reservedOpcode 0xF) ∧ decode 0x00000010 = .error (.reservedBitsSet 1) ∧
    decode 0x80000000 = .error (.reservedBitsSet 0x8000000) ∧
    (busyWith .nop).resetLine = false ∧ (busyWith .nop).phase = .busy 0 := by decide
theorem witness_RegisterMap :
    regAt 0x074 = some (.sym 13) ∧ regAt 0x078 = none ∧ regAt 0xFFC = none ∧ regAt 0x03C = some (.key 3) ∧
    regAt 0x040 = some (.sym 0) := by decide +kernel
theorem witness_HostWrite :
    State.reset.phase = .idle ∧ State.reset.resetLine = false ∧ (Reg.ctrl, 1) ∈ rwWidths ∧
    (Reg.key 3, 32) ∈ rwWidths ∧ (Reg.sym 13, 11) ∈ rwWidths ∧ (Reg.sym 0, 11) ∈ rwWidths := by decide
theorem witness_ReservedAccess :
    State.reset.resetLine = false ∧ (0x078 : Offset).toNat % 4 = 0 ∧ 0x078 ≤ (0x078 : Offset).toNat ∧
    (0xFFC : Offset).toNat % 4 = 0 ∧ 0x078 ≤ (0xFFC : Offset).toNat := by decide
/-- Each clause of the read statement at its offsets' ends, with the value it names. -/
theorem witness_HostRead :
    let s := (((parseOf 14 2 0x539 text1).setSeed 31 38 key1).setRepl 9).setEridx 13
    s.resetLine = false ∧
    ([0x000, 0x004, 0x008, 0x00C, 0x010, 0x014, 0x018, 0x01C, 0x020, 0x024, 0x028, 0x02C, 0x030, 0x03C, 0x040, 0x074,
      0x078, 0xFFC].map fun off => (regRead off 32 s).1) =
      [0x010B0E01, 0, 0, 0, 0, 0x539, 14, 2, 13, 9, 31, 38, 0xB9A7C6B3, 0xF2469BE5, 2, 1372, 0, 0] ∧
    ¬ (8 = 32 ∧ (0x000 : Offset).toNat % 4 = 0) ∧ ¬ (32 = 32 ∧ (0x002 : Offset).toNat % 4 = 0) := by decide +kernel
theorem witness_BadAccess :
    State.reset.resetLine = false ∧ ¬ (16 = 32 ∧ (0x004 : Offset).toNat % 4 = 0) ∧
    ¬ (32 = 32 ∧ (0xFFF : Offset).toNat % 4 = 0) := by decide
theorem witness_WritesWhileBusy :
    (busyWith .repair).phase = .busy 7 ∧ (busyWith .repair).resetLine = false ∧
    Reg.cmd ∉ [Reg.iclr, Reg.id, Reg.status, Reg.repl] ∧ Reg.sym 13 ∉ [Reg.iclr, Reg.id, Reg.status, Reg.repl] := by
  decide

/-- A busy state that meets the invariant. -/
theorem busyWith_inv : (busyWith .decode).Inv where
  busy_iff := by decide
  busy_not_done := by decide
  op_legal := by
    intro op h
    have : (8 : BitVec 4) = op := Phase.busy.inj h
    subst this
    decide
  no_error := by decide
  error_code := by decide
  pstate_defined := by decide
  usable_iff := by decide
  erasure_iff := by decide
  held_in_reset := by decide

theorem witness_Iclr : (busyWith .decode).Inv ∧ (busyWith .decode).status.busy = true ∧
    (busyWith .decode).resetLine = false := ⟨busyWith_inv, rfl, rfl⟩
theorem witness_FirstError : State.reset.status.err = false := rfl
theorem witness_KeySeed : (15 : Fin 16).val = 4 * (3 : Fin 4).val + (3 : Fin 4).val ∧
    (0 : Fin 16).val = 4 * (0 : Fin 4).val + (0 : Fin 4).val ∧
    State.reset.phase = .idle ∧ State.reset.resetLine = false := by decide
theorem witness_BusAddresses : Config.base + 4096 ≤ Config.base + 4096 := Nat.le_refl _
theorem witness_LegalIssue : State.reset.phase = .idle ∧ State.reset.resetLine = false := ⟨rfl, rfl⟩

/-- The reset state meets the invariant clause by clause (used by the witnesses below). -/
theorem idle_inv : ({ State.reset with coin := 0x539 } : State).Inv where
  busy_iff := by decide
  busy_not_done := by decide
  op_legal := by intro op h; cases h
  no_error := by decide
  error_code := by decide
  pstate_defined := by decide
  usable_iff := by decide
  erasure_iff := by decide
  held_in_reset := by decide

/-- Accesses of both lists: a dropped write and a clear while BUSY, then accesses that keep DONE. -/
theorem witness_StatusRead :
    let s : State := { State.reset with coin := 0x539 }
    s.Inv ∧ s.phase = .idle ∧ s.resetLine = false ∧ decode 0x9 = .ok .encode ∧
    decode 0xB = .error (.reservedOpcode 0xB) ∧
    (serveAll [.write 0x014 32 1, .write 0x010 32 3] (serve (.write 0x004 32 0x9) s)).phase = .busy 9 ∧
    ∀ a ∈ [Access.write 0x014 32 1, .write 0x004 8 1, .read 0x010 32], keepsDone a := by
  refine ⟨idle_inv, rfl, rfl, rfl, rfl, by decide +kernel, fun a ha v => ?_⟩
  simp only [List.mem_cons, List.not_mem_nil, or_false] at ha
  obtain rfl | rfl | rfl := ha <;> simp
theorem witness_ResultsIndependent :
    (busyWith .pack).phase = .busy Instr.pack.opcode ∧
    (serveAll [.write 0x028 32 5, .read 0x008 8] (busyWith .pack)).status.errmulti = true := by decide +kernel
theorem witness_Irq :
    irq ((State.reset.setIe true).setStatus (completedRecord Status.reset)) = true ∧ State.reset.resetLine = false ∧
    State.reset.phase = .idle := by decide
theorem witness_WriteSet : Instr.nop ≠ .srst ∧ Instr.verify ∈ [Instr.nop, .unpack, .verify] ∧
    Instr.pack ∉ [Instr.unpack, .decode, .srst] ∧ Instr.encode ∉ [Instr.repair, .decode, .srst] ∧
    Instr.repair ∉ [Instr.decode, .srst] ∧ Instr.flag ∉ [Instr.verify, .repair, .decode, .encode, .srst] ∧
    Instr.encode ∉ [Instr.repair, .srst] ∧ (13 : Fin 14).val ≠ (State.reset.setEridx 0).eridx.toNat ∧
    14 ≤ (State.reset.setEridx 14).eridx.toNat ∧ (State.reset.setEridx 13).eridx.toNat < 14 ∧
    (parseOf 13 1 0 text1).nwords ≠ 14 ∧ (parseOf 14 0x2001 0 text1).nwords = 14 ∧ erasureCount 0x2001 = 2 ∧
    erasureCount 0 ≠ 1 := by decide +kernel
/-- A DECODE with USABLE = 0 after it, for the last clause of the write-set statement. -/
theorem witness_WriteSetUnusable : (after .decode (parseOf 14 0 0x201 text1)).status.usable = false := by
  decide +kernel
/-- Dutiful accesses: a read, a command while IDLE, and a write to ICLR while BUSY. -/
theorem witness_Dutiful :
    accessDuty State.reset (.read 0x074 32) ∧ accessDuty State.reset (.write 0x004 32 0xA) ∧
    accessDuty (busyWith .nop) (.write 0x010 32 3) := by
  refine ⟨rfl, ⟨rfl, fun r _ _ _ => rfl, fun _ => rfl⟩, rfl, fun r hr _ hi => ?_, fun h => ?_⟩
  · have : regAt 0x010 = some .iclr := rfl
    rw [this] at hr; cases hr; exact absurd rfl hi
  · have : regAt 0x010 = some .iclr := rfl
    rw [this] at h; cases h
theorem witness_ResetValues : Reg.coin ≠ .id ∧ Reg.coin ≠ .status := by decide
theorem witness_SoftReset : (busyWith .nop).phase = .busy 0 ∧ (busyWith .nop).resetLine = false := ⟨rfl, rfl⟩
theorem witness_HardwareReset : readCount [.read 0 32, .write 0x014 32 1, .read 0x008 8] = 2 := by decide
theorem witness_StepRuns :
    (busyWith .nop).resetLine = false ∧ (busyWith .nop).phase = .busy Instr.nop.opcode ∧ (busyWith .nop).moves = [] ∧
    ((busyWith .nop).setMoves [.engine]).moves = [.engine] ∧
    (State.reset.setMoves [.access (.read 0 32)]).moves = [.access (.read 0 32)] ∧
    (State.reset.setMoves [.reset true]).moves = [.reset true] ∧ State.reset.phase = .idle ∧
    State.reset.moves = [] := by decide
theorem witness_StepKeeps : (busyWith .decode).Inv ∧ ∃ t, step (busyWith .decode) = .next t := ⟨busyWith_inv, _, rfl⟩
theorem witness_NeverStops : (busyWith .decode).Inv := busyWith_inv
theorem witness_BusyCompletes :
    ((busyWith .repair).setMoves [rdMove .status, wrMove .coin 1]).resetLine = false ∧
    ((busyWith .repair).setMoves [rdMove .status, wrMove .coin 1]).phase = .busy Instr.repair.opcode ∧
    ∀ b, Move.reset b ∉ ((busyWith .repair).setMoves [rdMove .status, wrMove .coin 1]).moves := by decide
theorem witness_RunPseudo :
    (State.reset.setMoves ((Stmt.run .verify 2).expand ++ [rdMove .coin])).phase = .idle ∧
    (State.reset.setMoves ((Stmt.run .verify 2).expand ++ [rdMove .coin])).resetLine = false ∧
    (State.reset.setMoves ((Stmt.run .verify 2).expand ++ [rdMove .coin])).moves =
      (Stmt.run .verify 2).expand ++ [rdMove .coin] := ⟨rfl, rfl, rfl⟩
theorem witness_AlphaPrimitive : (0 < 1 ∧ 1 < 2047) ∧ (0 < 2046 ∧ 2046 < 2047) ∧ (1 : Sym11) ≠ 0 ∧
    (2047 : Sym11) ≠ 0 := by decide
theorem witness_CheckSymbol : horner (cw1.pop.push 1372) = 0 := by decide +kernel
theorem witness_SingleCorruption :
    horner cw1 = 0 ∧ (0 : Sym11) ≠ cw1.get 0 ∧ (2047 : Sym11) ≠ cw1.get 13 ∧ (0 : Fin 14) ≠ 13 ∧
    cw1.get 0 ≠ cw1.get 13 := by decide +kernel
theorem witness_Verify : horner (withSym cw1).sym = 0 ∧ (1 : Sym11) ≠ (withSym cw1).sym.get 13 ∧
    ((withSym cw1).setCoin 0x539).coin ≠ 0 := by decide +kernel
theorem witness_Repair :
    (State.reset.setEridx 0).eridx.toNat = (0 : Fin 14).val ∧ (State.reset.setEridx 13).eridx.toNat = (13 : Fin 14).val ∧
    14 ≤ (State.reset.setEridx 14).eridx.toNat ∧ 14 ≤ (State.reset.setEridx 15).eridx.toNat := by decide
theorem witness_WordCount :
    (parseOf 0 0 0 text1).nwords ≠ 14 ∧ (parseOf 13 0 0 text1).nwords ≠ 14 ∧ (parseOf 15 0 0 text1).nwords ≠ 14 ∧
    (parseOf 65535 0 0 text1).nwords ≠ 14 := by decide
theorem witness_TwoErasures :
    (parseOf 14 0x2001 0 text1).nwords = 14 ∧ (0 : Fin 14) ≠ 13 ∧
    (parseOf 14 0x2001 0 text1).ermask.getLsbD (0 : Fin 14) = true ∧
    (parseOf 14 0x2001 0 text1).ermask.getLsbD (13 : Fin 14) = true := by decide
theorem witness_NoErasure :
    (parseOf 14 0 0x539 text1).nwords = 14 ∧ (parseOf 14 0 0x539 text1).ermask = 0 ∧
    horner (unflagged text1 0x539) = 0 ∧ horner (unflagged text1 0x201) ≠ 0 := by decide +kernel
theorem witness_OneErasure :
    (parseOf 14 1 0x539 text1).nwords = 14 ∧ (parseOf 14 1 0x539 text1).ermask = 1#14 <<< (0 : Fin 14).val ∧
    (parseOf 14 2 0x539 text1).ermask = 1#14 <<< (1 : Fin 14).val ∧
    (parseOf 14 0x2000 0x539 text1).ermask = 1#14 <<< (13 : Fin 14).val := by decide
theorem witness_FirstOutcome :
    parseCode 13 2 true = 1 ∧ parseCode 15 2 true = 2 ∧ parseCode 14 2 false = 3 ∧ parseCode 14 1 false = 4 ∧
    parseCode 14 0 true = 5 ∧ parseCode 14 0 false = 6 ∧ erasureCount 0x3FFF = 14 := by decide +kernel
theorem witness_WrongNetwork : (0x201 : Sym11) ≠ (seedOf 0 38 key1 0x539).coin ∧ (2 : Fin 14) ≠ 1 := by decide
theorem witness_Substitution :
    (parseOf 14 0 0x539 text1).nwords = 14 ∧ (parseOf 14 0 0x539 text1).ermask = 0 ∧
    horner (unflagged text1 0x539) = 0 ∧ (1696 : Sym11) ≠ text1.get 2 := by decide +kernel
/-- 14 words with one and with two failed lookups, 13 words, 15 words, no word. -/
theorem witness_HostParse :
    let one : List (Option Sym11) := (text1.toList.map some).set 2 none
    let all : List (List (Option Sym11)) := [one, one.set 13 none, one.take 13, one ++ [none], []]
    (all.map fun words => (words.length, words.count none)) = [(14, 1), (14, 2), (13, 1), (15, 2), (0, 0)] ∧
    one[13]? = some (some 1372) ∧
    ∀ words ∈ all, ∀ polls ∈ [0, 1],
      let s := State.reset.setMoves (expandAll (hostParse words polls))
      s.phase = .idle ∧ s.resetLine = false ∧ s.moves = expandAll (hostParse words polls) ++ [] := by
  decide +kernel

end Sys2Proof.Tests
end

section
/-! Register reads at reset and under updates of STATUS and PHASE, the irq line, and the obligations of the state:
O18 (R36, R248 to R250) and O21 (R37, R231). -/

namespace Sys2Proof.Machine

/-! ### What a register reads -/

/-- No register but STATUS shows the status record. -/
theorem regValue_setStatus {r : Reg} (h : r ≠ .status) (s : State) (t : Status) :
    regValue (s.setStatus t) r = regValue s r := by
  cases r with
  | status => exact absurd rfl h
  | _ => rfl

/-- No register shows PHASE itself: BUSY is read from the status record (R34). -/
@[simp] theorem regValue_setPhase (s : State) (p : Phase) (r : Reg) :
    regValue (s.setPhase p) r = regValue s r := by
  cases r <;> rfl

theorem regValue_complete {r : Reg} (h : r ≠ .status) (s : State) : regValue (complete s) r = regValue s r := by
  rw [complete, regValue_setPhase, regValue_setStatus h]

/-- What `resetRegisters` keeps, the reset input and the model's own fields, no register shows. -/
@[simp] theorem regValue_resetRegisters (s : State) (r : Reg) :
    regValue (resetRegisters s) r = regValue State.reset r := by
  cases r <;> rfl

@[simp] theorem State.reset_sym_get (p : Fin 14) : State.reset.sym.get p = 0 := by
  simp [State.reset, Vector.get_eq_getElem]

@[simp] theorem keyWord_zero (n : Fin 4) : keyWord 0 n = 0 := by
  simp [keyWord]

/-- The reset value of every register but ID is 0 (R37). -/
theorem regValue_reset {r : Reg} (h : r ≠ .id) : regValue State.reset r = 0 := by
  cases r with
  | id => exact absurd rfl h
  | key n => exact keyWord_zero n
  | sym p => simp [regValue]
  | _ => rfl

/-! ### The irq line -/

theorem irq_eq_true_iff (s : State) :
    irq s = true ↔ s.ie = true ∧ (s.status.done = true ∨ s.status.err = true) := by
  simp [irq]

@[simp] theorem irq_setIe (s : State) (v : Bool) : irq (s.setIe v) = (v && (s.status.done || s.status.err)) := rfl

@[simp] theorem clearRecord_done (v : Word) (t : Status) :
    (clearRecord v t).done = (!v[0] && t.done) := by
  cases h0 : v[0] <;> cases h1 : v[1] <;> simp [clearRecord, h0, h1]

@[simp] theorem clearRecord_err (v : Word) (t : Status) :
    (clearRecord v t).err = (!v[1] && t.err) := by
  cases h0 : v[0] <;> cases h1 : v[1] <;> simp [clearRecord, h0, h1]

theorem serve_write_ctrl_idle {s : State} (hr : s.resetLine = false) (hp : s.phase = .idle) (v : Word) :
    serve (.write (regOffset .ctrl) 32 v) s = s.setIe (v.getLsbD 0) := by
  rw [serve_write hr, regWrite_store_idle rfl hp, regStore]

theorem serve_write_iclr {s : State} (hr : s.resetLine = false) (v : Word) :
    serve (.write (regOffset .iclr) 32 v) s = writeIclr v s := by
  rw [serve_write hr, regWrite_iclr]

/-- A write to ICLR with both bits set lowers irq, whatever IE is (R249, R250). -/
theorem irq_writeIclr_both {v : Word} (h0 : v[0] = true) (h1 : v[1] = true) (s : State) :
    irq (writeIclr v s) = false := by
  simp [irq, h0, h1]

/-- Settles O18: the formula is `irq` itself, a write of 1 to CTRL sets IE, and a write of 3 to ICLR clears DONE and
ERR. -/
theorem irqIsALevel : Obligations.IrqIsALevel := by
  unfold Obligations.IrqIsALevel
  intro s
  refine ⟨irq_eq_true_iff s, fun hr hp => ?_, fun hr => ?_⟩
  · change irq (serve (.write (regOffset .ctrl) 32 1) s) = _
    rw [serve_write_ctrl_idle hr hp, irq_setIe]
    simp
  · change irq (serve (.write (regOffset .iclr) 32 3) s) = false
    rw [serve_write_iclr hr]
    exact irq_writeIclr_both (by decide) (by decide) s

/-! ### The reset values -/

/-- Settles O21: the fields are the reset record's own, every register but ID reads 0 of them, and SRST differs from
the reset state in STATUS alone. -/
theorem resetValuesAreThoseOfTheTable : Obligations.ResetValuesAreThoseOfTheTable := by
  unfold Obligations.ResetValuesAreThoseOfTheTable
  refine ⟨State.reset_sym_get, rfl, rfl, rfl, rfl, rfl, rfl, rfl, rfl, rfl, rfl, rfl, rfl, rfl,
    fun r hr => regValue_reset hr, fun s => ⟨complete (resetRegisters s), rfl, fun r hr => ?_⟩⟩
  rw [regValue_complete hr, regValue_resetRegisters]

end Sys2Proof.Machine
end

section
/-! What an access returns and stores: the reserved offsets, a read's value, a bad access, a store to a read-write
register, and the big-endian view of KEY: O5, O6, O7, O9 and O13 (R62 to R67, R77, R78). -/

open Sys2Proof.Statements

namespace Sys2Proof.Machine

/-! ### Reserved offsets -/

/-- Every register stands below the first reserved offset (R61, R63). -/
theorem regOffset_lt (r : Reg) : (regOffset r).toNat < 0x078 := by
  cases r with
  | key n => revert n; decide
  | sym p => revert p; decide
  | _ => decide

/-- The aligned offsets below 0x078 are the thirty registers' (R61). -/
theorem regAt_isSome_of_lt (k : Fin 30) : (regAt (BitVec.ofNat 12 (4 * k.val))).isSome = true := by
  revert k; decide +kernel

/-- R63: the reserved offsets. -/
theorem regAt_eq_none_iff {off : Offset} (h : off.toNat % 4 = 0) : regAt off = none ↔ 0x078 ≤ off.toNat := by
  constructor
  · intro hn
    by_contra hlt
    have hoff : off = BitVec.ofNat 12 (4 * (off.toNat / 4)) := by bv_omega
    have hs := regAt_isSome_of_lt ⟨off.toNat / 4, by omega⟩
    rw [← hoff, hn] at hs
    cases hs
  · intro hge
    cases hr : regAt off with
    | none => rfl
    | some r =>
      have := regOffset_lt r
      rw [← regOffset_of_regAt hr] at this
      omega

theorem supported_of_aligned {off : Offset} (h : off.toNat % 4 = 0) : supported off 32 = true :=
  (supported_iff off 32).2 ⟨rfl, h⟩

/-! ### What a read returns -/

/-- A supported read leaves the block's state alone (R77). -/
theorem regRead_supported_state {off : Offset} {bits : Nat} (h : supported off bits = true) (s : State) :
    (regRead off bits s).2 = s := by
  simp only [regRead, h, if_true]
  split <;> rfl

theorem serve_read_aligned {s : State} (hr : s.resetLine = false) {off : Offset} (h : off.toNat % 4 = 0) :
    serve (.read off 32) s = s.pushReply (regRead off 32 s).1 := by
  rw [serve_read hr, regRead_supported_state (supported_of_aligned h)]

theorem regRead_value {off : Offset} {r : Reg} (h : off = regOffset r) (s : State) :
    (regRead off 32 s).1 = regValue s r := by
  rw [h, regRead_reg]

theorem regRead_reserved_value {off : Offset} (ha : off.toNat % 4 = 0) (h : 0x078 ≤ off.toNat) (s : State) :
    (regRead off 32 s).1 = 0 := by
  rw [regRead_reserved ((regAt_eq_none_iff ha).2 h) (supported_of_aligned ha)]

/-- Zero extension of a field of at most 32 bits keeps its value. -/
theorem toNat_zext {w : Nat} (h : w ≤ 32) (x : BitVec w) : (x.setWidth 32).toNat = x.toNat :=
  BitVec.toNat_setWidth_of_le h

theorem regOffset_key_toNat (n : Fin 4) : (regOffset (.key n)).toNat = 0x030 + 4 * n.val := by
  revert n; decide

theorem regOffset_sym_toNat (p : Fin 14) : (regOffset (.sym p)).toNat = 0x040 + 4 * p.val := by
  revert p; decide

/-- R67: the value of KEYn. -/
theorem keyWord_toNat (k : BitVec 128) (n : Fin 4) :
    (keyWord k n).toNat = k.toNat / 2 ^ (96 - 32 * n.val) % 2 ^ 32 := by
  rw [keyWord, BitVec.extractLsb'_toNat, Nat.shiftRight_eq_div_pow]

/-! ### Bad accesses -/

/-- An access error is the record of R243 and nothing else. -/
theorem accessError_eq (e : ErrCode) (s : State) :
    accessError e s = { s with status := recordError (errCode e) s.status } := rfl

theorem supported_eq_false {off : Offset} {bits : Nat} (h : ¬ (bits = 32 ∧ off.toNat % 4 = 0)) :
    supported off bits = false := by
  rw [← Bool.not_eq_true, supported_iff]; exact h

theorem serve_write_unsupported {s : State} (hr : s.resetLine = false) {off : Offset} {bits : Nat}
    (h : ¬ (bits = 32 ∧ off.toNat % 4 = 0)) (v : Word) :
    serve (.write off bits v) s = { s with status := recordError 5 s.status } := by
  rw [serve_write hr, regWrite_unsupported (supported_eq_false h), accessError_eq]; rfl

theorem serve_read_unsupported {s : State} (hr : s.resetLine = false) {off : Offset} {bits : Nat}
    (h : ¬ (bits = 32 ∧ off.toNat % 4 = 0)) :
    serve (.read off bits) s = { s with status := recordError 5 s.status, replies := 0 :: s.replies } := by
  rw [serve_read hr, regRead_unsupported (supported_eq_false h), accessError_eq]; rfl

/-- Settles O9: an unsupported access is BAD_ACCESS, whose code is 5. -/
theorem badAccessIsRecorded : Obligations.BadAccessIsRecorded := by
  unfold Obligations.BadAccessIsRecorded
  intro s off bits v hr h
  exact ⟨serve_write_unsupported hr h v, serve_read_unsupported hr h⟩

/-- Settles O6: the read-only registers and the reserved offsets have their own cases of a write, and a read of a
write-only register or a reserved offset gives 0. -/
theorem readOnlyAndReservedAccessesDoNothing : Obligations.ReadOnlyAndReservedAccessesDoNothing := by
  unfold Obligations.ReadOnlyAndReservedAccessesDoNothing
  intro s v hr
  have readOnly : ∀ r ∈ [Reg.id, Reg.status, Reg.repl], regAccess r = .readOnly := by decide
  have readsZero : ∀ r ∈ [Reg.cmd, Reg.iclr], regValue s r = 0 := by simp [regValue]
  refine ⟨fun r hmem => ?_, fun r hmem => ?_, fun off ha hoff => ⟨?_, ?_⟩⟩
  · rw [serve_write hr, regWrite_readOnly (readOnly r hmem)]
  · rw [serve_read_reg hr, readsZero r hmem]; rfl
  · rw [serve_write hr, regWrite_reserved ((regAt_eq_none_iff ha).2 hoff) (supported_of_aligned ha)]
  · rw [serve_read_aligned hr ha, regRead_reserved_value ha hoff]; rfl

/-- Settles O7: the value is `regValue` of the register at the offset, or 0 where there is none. -/
theorem hostReadReturnsTheRegister : Obligations.HostReadReturnsTheRegister := by
  unfold Obligations.HostReadReturnsTheRegister
  intro s off bits hr
  refine ⟨serve_read_unsupported hr, fun ha => ⟨(regRead off 32 s).1, serve_read_aligned hr ha, ?_⟩⟩
  have value (r : Reg) (h : off = regOffset r) := regRead_value h s
  refine ⟨?_, value .id, value .status, fun h => ?_, fun h => ?_, fun h => ?_, fun h => ?_, fun h => ?_,
    fun h => ?_, fun h => ?_, fun h => ?_, fun n h => ?_, fun p h => ?_⟩
  · rintro (h | h | h)
    · exact value .cmd h
    · exact value .iclr h
    · exact regRead_reserved_value ha h s
  · rw [value .ctrl h, regValue, toNat_zext (by decide), BitVec.toNat_ofBool]
  · rw [value .coin h, regValue, toNat_zext (by decide)]
  · rw [value .nwords h, regValue, toNat_zext (by decide)]
  · rw [value .ermask h, regValue, toNat_zext (by decide)]
  · rw [value .eridx h, regValue, toNat_zext (by decide)]
  · rw [value .repl h, regValue, toNat_zext (by decide)]
  · rw [value .rsv h, regValue, toNat_zext (by decide)]
  · rw [value .bday h, regValue, toNat_zext (by decide)]
  · rw [value (.key n) (BitVec.eq_of_toNat_eq (h.trans (regOffset_key_toNat n).symm)), regValue, keyWord_toNat]
  · rw [value (.sym p) (BitVec.eq_of_toNat_eq (h.trans (regOffset_sym_toNat p).symm)), regValue,
      toNat_zext (by decide)]

/-! ### The words and bytes of KEY -/

/-- Digit `k + 1` of a word in digits of `w` bits is digit `k` of the word without its last digit. -/
theorem extractLsb'_append_succ {v w : Nat} (x : BitVec v) (y : BitVec w) (k : Nat) :
    (x ++ y).extractLsb' (w * (k + 1)) w = x.extractLsb' (w * k) w := by
  rw [BitVec.extractLsb'_append_eq_of_le (Nat.le_mul_of_pos_right w k.succ_pos), Nat.mul_succ, Nat.add_sub_cancel]

/-- The digits of four joined words, the most significant first. -/
theorem extractLsb'_append_four {w : Nat} (a b c d : BitVec w) (i : Fin 4) :
    (a ++ b ++ c ++ d).extractLsb' (w * (3 - i.val)) w = ![a, b, c, d] i := by
  match i with
  | 0 =>
    calc (a ++ b ++ c ++ d).extractLsb' (w * 3) w
        = (a ++ b ++ c).extractLsb' (w * 2) w := extractLsb'_append_succ _ d 2
      _ = (a ++ b).extractLsb' (w * 1) w := extractLsb'_append_succ _ c 1
      _ = a.extractLsb' (w * 0) w := extractLsb'_append_succ a b 0
      _ = a := BitVec.extractLsb'_eq_self
  | 1 =>
    calc (a ++ b ++ c ++ d).extractLsb' (w * 2) w
        = (a ++ b ++ c).extractLsb' (w * 1) w := extractLsb'_append_succ _ d 1
      _ = (a ++ b).extractLsb' (w * 0) w := extractLsb'_append_succ _ c 0
      _ = b := BitVec.extractLsb'_append_eq_right
  | 2 => exact (extractLsb'_append_succ _ d 0).trans BitVec.extractLsb'_append_eq_right
  | 3 => exact BitVec.extractLsb'_append_eq_right

/-- R67: the words of a KEY written as four words, the most significant first. -/
theorem keyWord_append (w0 w1 w2 w3 : Word) (n : Fin 4) :
    keyWord (w0 ++ w1 ++ w2 ++ w3) n = ![w0, w1, w2, w3] n := by
  have h : 96 - 32 * n.val = 32 * (3 - n.val) := by omega
  rw [keyWord, h]
  exact extractLsb'_append_four w0 w1 w2 w3 n

/-- R67: the bytes of the word a Host makes of four bytes. -/
theorem extractLsb'_keyWordOfBytes (b0 b1 b2 b3 : BitVec 8) (i : Fin 4) :
    (keyWordOfBytes b0 b1 b2 b3).extractLsb' (24 - 8 * i.val) 8 = ![b0, b1, b2, b3] i := by
  have h : 24 - 8 * i.val = 8 * (3 - i.val) := by omega
  rw [keyWordOfBytes, h]
  exact extractLsb'_append_four b0 b1 b2 b3 i

/-- Replacing KEYn changes that word of KEY alone (R65, R67). -/
theorem keyWord_setKeyWord (k : BitVec 128) (n m : Fin 4) (v : Word) :
    keyWord (setKeyWord k n v) m = if m = n then v else keyWord k m := by
  fin_cases n <;> simp only [setKeyWord, keyWord_append] <;> fin_cases m <;> rfl

/-- Four word writes leave nothing of the KEY before them. -/
theorem setKeyWord_all (k : BitVec 128) (w0 w1 w2 w3 : Word) :
    setKeyWord (setKeyWord (setKeyWord (setKeyWord k 0 w0) 1 w1) 2 w2) 3 w3 = w0 ++ w1 ++ w2 ++ w3 := by
  simp [setKeyWord, keyWord_append]

theorem keyByte_toNat (k : BitVec 128) (b : Fin 16) :
    (keyByte k b).toNat = k.toNat / 2 ^ (120 - 8 * b.val) % 2 ^ 8 := by
  rw [keyByte, BitVec.extractLsb'_toNat, Nat.shiftRight_eq_div_pow]

/-- R67: byte `4n + i` is the byte `i` of KEYn, the first the most significant. -/
theorem keyByte_eq_keyWord (k : BitVec 128) {n i : Fin 4} {b : Fin 16} (h : b.val = 4 * n.val + i.val) :
    keyByte k b = (keyWord k n).extractLsb' (24 - 8 * i.val) 8 := by
  ext j hj
  have hlt : 24 - 8 * i.val + j < 32 := by omega
  have hpos : 96 - 32 * n.val + (24 - 8 * i.val + j) = 120 - 8 * b.val + j := by omega
  simp only [keyByte, keyWord, BitVec.getElem_extractLsb', BitVec.getLsbD_extractLsb', hlt, hpos, decide_true,
    Bool.true_and]

/-- The KEY of a 16-byte buffer, as a Host writes it to KEY0..KEY3 (R67). -/
def keyOfBytes (buf : Fin 16 → BitVec 8) : BitVec 128 :=
  keyWordOfBytes (buf 0) (buf 1) (buf 2) (buf 3) ++ keyWordOfBytes (buf 4) (buf 5) (buf 6) (buf 7) ++
    keyWordOfBytes (buf 8) (buf 9) (buf 10) (buf 11) ++ keyWordOfBytes (buf 12) (buf 13) (buf 14) (buf 15)

/-- The byte view of that KEY is the buffer. -/
theorem keyByte_keyOfBytes (buf : Fin 16 → BitVec 8) (b : Fin 16) : keyByte (keyOfBytes buf) b = buf b := by
  obtain ⟨n, i, rfl⟩ : ∃ n i : Fin 4, b = ⟨4 * n.val + i.val, by omega⟩ :=
    ⟨⟨b.val / 4, by omega⟩, ⟨b.val % 4, by omega⟩, Fin.ext (Nat.div_add_mod b.val 4).symm⟩
  rw [keyByte_eq_keyWord _ rfl, keyOfBytes, keyWord_append]
  match n with
  | 0 | 1 | 2 | 3 => exact (extractLsb'_keyWordOfBytes _ _ _ _ i).trans (by fin_cases i <;> rfl)

theorem serveAll_write_key_idle {s : State} (hp : s.phase = .idle) (hr : s.resetLine = false) (n : Fin 4) (v : Word)
    (as : List Access) :
    serveAll (.write (regOffset (.key n)) 32 v :: as) s = serveAll as { s with key := setKeyWord s.key n v } := by
  rw [serveAll, List.foldl_cons, serve_write hr, regWrite_store_idle rfl hp]; rfl

/-- The four writes of a KEY to an idle block store it and change nothing else. -/
theorem serveAll_write_keys {s : State} (hp : s.phase = .idle) (hr : s.resetLine = false) (w0 w1 w2 w3 : Word) :
    serveAll [.write (regOffset (.key 0)) 32 w0, .write (regOffset (.key 1)) 32 w1,
        .write (regOffset (.key 2)) 32 w2, .write (regOffset (.key 3)) 32 w3] s =
      { s with key := w0 ++ w1 ++ w2 ++ w3 } := by
  simp only [serveAll_write_key_idle, hp, hr, setKeyWord_all]
  rfl

/-- Settles O13: KEY is the join of its four words, and each word the join of its four bytes. -/
theorem keySeedBytesAreBigEndian : Obligations.KeySeedBytesAreBigEndian := by
  unfold Obligations.KeySeedBytesAreBigEndian
  intro k buf
  refine ⟨keyWord_toNat k, keyByte_toNat k, fun n i b h => keyByte_eq_keyWord k h,
    keyOfBytes buf, keyByte_keyOfBytes buf, (setKeyWord_all k _ _ _ _).symm, fun s hp hr => ?_⟩
  exact serveAll_write_keys hp hr _ _ _ _

/-! ### What a write stores -/

/-- The read-write registers of the statement and their widths are those of R61's table. -/
theorem rwWidths_spec {r : Reg} {w : Nat} (h : (r, w) ∈ rwWidths) : regAccess r = .readWrite ∧ w = regWidth r := by
  have table : ∀ x ∈ rwWidths, regAccess x.1 = .readWrite ∧ x.2 = regWidth x.1 := by decide
  exact table _ h

/-- The low `w` bits, zero-extended. -/
theorem toNat_low_bits {w : Nat} (h : w ≤ 32) (v : Word) :
    ((v.setWidth w).setWidth 32).toNat = v.toNat % 2 ^ w := by
  rw [toNat_zext h, BitVec.toNat_setWidth]

/-- R65: the stored register reads the low bits of what was written. -/
theorem regValue_regStore_same {r : Reg} (h : regAccess r = .readWrite) (s : State) (v : Word) :
    (regValue (regStore s v r) r).toNat = v.toNat % 2 ^ regWidth r := by
  cases r with
  | ctrl =>
    rw [regStore, regValue, State.setIe_ie, toNat_zext (by decide), BitVec.toNat_ofBool]
    exact (Nat.toNat_testBit v.toNat 0).trans (by rw [Nat.pow_zero, Nat.div_one]; rfl)
  | coin => exact toNat_low_bits (by decide) v
  | nwords => exact toNat_low_bits (by decide) v
  | ermask => exact toNat_low_bits (by decide) v
  | eridx => exact toNat_low_bits (by decide) v
  | rsv => exact toNat_low_bits (by decide) v
  | bday => exact toNat_low_bits (by decide) v
  | key n =>
    rw [regStore, regValue, State.setSeed_key, keyWord_setKeyWord, if_pos rfl]
    exact (Nat.mod_eq_of_lt v.isLt).symm
  | sym p =>
    have hget : (s.sym.set p (v.setWidth 11)).get p = v.setWidth 11 := by simp [Vector.get_eq_getElem]
    rw [regStore, regValue, State.setSym_sym, hget]
    exact toNat_low_bits (by decide) v
  | id | cmd | status | iclr | repl => cases h

/-- R65: a store changes no other register. -/
theorem regValue_regStore_other {r r' : Reg} (h : r' ≠ r) (s : State) (v : Word) :
    regValue (regStore s v r) r' = regValue s r' := by
  cases r with
  | key n =>
    cases r' with
    | key m =>
      have hm : m ≠ n := fun e => h (congrArg Reg.key e)
      rw [regStore, regValue, State.setSeed_key, keyWord_setKeyWord, if_neg hm, regValue]
    | _ => rfl
  | sym p =>
    cases r' with
    | sym q =>
      have hq : p.val ≠ q.val := fun e => h (congrArg Reg.sym (Fin.ext e.symm))
      simp only [regStore, regValue, State.setSym_sym, Vector.get_eq_getElem, Vector.getElem_set_ne _ _ hq]
    | _ => rfl
  | _ => cases r' <;> trivial

/-- R65, R78: a store leaves STATUS, PHASE and all that is no register alone. -/
theorem regStore_frame (s : State) (v : Word) (r : Reg) :
    (regStore s v r).status = s.status ∧ (regStore s v r).phase = s.phase ∧ SameFrame s (regStore s v r) := by
  cases r <;> exact ⟨rfl, rfl, rfl, rfl, rfl⟩

/-- Settles O5: the write is `regStore`, and the read after it returns what the register then holds. -/
theorem hostWriteStoresTheImplementedBits : Obligations.HostWriteStoresTheImplementedBits := by
  unfold Obligations.HostWriteStoresTheImplementedBits
  intro s v r w hp hr hmem
  obtain ⟨hrw, rfl⟩ := rwWidths_spec hmem
  obtain ⟨hstatus, hphase, hreset, hmoves, hreplies⟩ := regStore_frame s v r
  have hvalue := regValue_regStore_same hrw s v
  refine ⟨regStore s v r, ?_, hvalue, ?_, fun r' h => regValue_regStore_other h s v, hstatus, hphase, hreset, hmoves,
    hreplies⟩
  · rw [serve_write hr, regWrite_store_idle hrw hp]
  · rw [serve_read_reg (hreset.trans hr), ← hvalue, BitVec.ofNat_toNat, BitVec.setWidth_eq]; rfl

end Sys2Proof.Machine
end

section
/-! A command in progress and its result: what the Host's accesses can do to a busy block, that no command reads any
of it, and what STATUS shows around a completion: O16 and O17 (R71, R72, R251, R286, R287). -/

open Sys2Proof.Statements

namespace Sys2Proof.Machine

/-! ### Accesses while a command is in progress -/

/-- What an access can change while a command is in progress: DONE, the error record and the replies. -/
def State.setHostView (s : State) (t : Status) (q : List Word) : State :=
  { s with
      status := { s.status with done := t.done, err := t.err, errcode := t.errcode, errmulti := t.errmulti }
      replies := q }

theorem sameResults_refl (s : State) : SameResults s s :=
  ⟨rfl, rfl, rfl, rfl, rfl, rfl, rfl, rfl, rfl, rfl, rfl, rfl, rfl, rfl, rfl, rfl⟩

/-- The two states agree by unfolding: what `SameResults` compares, the Host's view does not hold. -/
theorem sameResults_setHostView (s : State) (t : Status) (q : List Word) : SameResults s (s.setHostView t q) :=
  sameResults_refl s

theorem regValue_setHostView {r : Reg} (h : r ≠ .status) (s : State) (t : Status) (q : List Word) :
    regValue (s.setHostView t q) r = regValue s r := by
  cases r with
  | status => exact absurd rfl h
  | _ => rfl

theorem raiseError_eq_setHostView (e : ErrCode) (s : State) :
    raiseError e s = s.setHostView (raiseRecord e s.status) s.replies := by
  cases h : s.status.err <;> simp [raiseError, raiseRecord, h, State.setHostView, State.setStatus]

theorem writeIclr_eq_setHostView (v : Word) (s : State) :
    writeIclr v s = s.setHostView (clearRecord v s.status) s.replies := by
  cases h0 : v[0] <;> cases h1 : v[1] <;>
    simp [writeIclr, clearRecord, h0, h1, State.setHostView, State.setStatus]

@[simp] theorem raiseRecord_done (e : ErrCode) (t : Status) : (raiseRecord e t).done = t.done := by
  simp only [raiseRecord]; split <;> rfl

@[simp] theorem raiseRecord_busy (e : ErrCode) (t : Status) : (raiseRecord e t).busy = t.busy := by
  simp only [raiseRecord]; split <;> rfl

@[simp] theorem raiseRecord_err (e : ErrCode) (t : Status) : (raiseRecord e t).err = true := by
  simp only [raiseRecord]; split
  · assumption
  · rfl

/-- `s'` differs from `s` in the Host's view alone, and DONE has not become 1. -/
def OnlyHostView (s s' : State) : Prop := ∃ t q, s' = s.setHostView t q ∧ (t.done = true → s.status.done = true)

theorem OnlyHostView.refl (s : State) : OnlyHostView s s := ⟨s.status, s.replies, rfl, id⟩

theorem OnlyHostView.trans {s s' s'' : State} (h : OnlyHostView s s') (h' : OnlyHostView s' s'') :
    OnlyHostView s s'' := by
  obtain ⟨t, q, rfl, hdone⟩ := h
  obtain ⟨t', q', rfl, hdone'⟩ := h'
  exact ⟨t', q', rfl, fun ht => hdone (hdone' ht)⟩

theorem OnlyHostView.phase {s s' : State} (h : OnlyHostView s s') : s'.phase = s.phase := by
  obtain ⟨t, q, rfl, -⟩ := h; rfl

theorem onlyHostView_pushReply (s : State) (v : Word) : OnlyHostView s (s.pushReply v) :=
  ⟨s.status, v :: s.replies, rfl, id⟩

theorem onlyHostView_accessError (e : ErrCode) (s : State) : OnlyHostView s (accessError e s) :=
  ⟨raiseRecord e s.status, s.replies, raiseError_eq_setHostView e s, fun h => by rwa [raiseRecord_done] at h⟩

theorem onlyHostView_writeIclr (v : Word) (s : State) : OnlyHostView s (writeIclr v s) :=
  ⟨clearRecord v s.status, s.replies, writeIclr_eq_setHostView v s,
    fun h => by rw [clearRecord_done, Bool.and_eq_true] at h; exact h.2⟩

/-- R287: an access while a command is in progress reaches the Host's view alone. -/
theorem serve_busy {s : State} {op : BitVec 4} (hp : s.phase = .busy op) (a : Access) : OnlyHostView s (serve a s) := by
  have notIdle : s.phase ≠ .idle := by rw [hp]; exact Phase.noConfusion
  cases hr : s.resetLine with
  | true =>
    cases a with
    | read off bits => rw [serve_read_in_reset hr]; exact onlyHostView_pushReply s 0
    | write off bits v => rw [serve_write_in_reset hr]; exact .refl s
  | false =>
    cases a with
    | read off bits =>
      rw [serve_read hr]
      refine .trans ?_ (onlyHostView_pushReply _ _)
      obtain h | h := regRead_cases off bits s <;> rw [h]
      · exact .refl s
      · exact onlyHostView_accessError .badAccess s
    | write off bits v =>
      rw [serve_write hr]
      obtain h | h | h | ⟨-, h⟩ | ⟨hi, -⟩ | ⟨hi, -⟩ := regWrite_cases off bits v s
      · rw [h]; exact .refl s
      · rw [h]; exact onlyHostView_accessError .badAccess s
      · rw [h]; exact onlyHostView_writeIclr v s
      · rw [h]; exact onlyHostView_accessError .busyWrite s
      · exact absurd hi notIdle
      · exact absurd hi notIdle

theorem serveAll_busy {s : State} {op : BitVec 4} (hp : s.phase = .busy op) (as : List Access) :
    OnlyHostView s (serveAll as s) :=
  List.foldlRecOn as _ (.refl s) fun _ h a _ => h.trans (serve_busy (h.phase.trans hp) a)

/-! ### No command reads the Host's view -/

theorem decodeCommit_setHostView (o : ParseOutcome) (e : Bool) (w : Codeword) (s : State) (t : Status) (q : List Word) :
    decodeCommit o e w (s.setHostView t q) = (decodeCommit o e w s).setHostView t q := by
  cases h : isValid w <;> simp only [decodeCommit, h] <;> rfl

theorem decodeErased_setHostView (p : Fin 14) (w : Codeword) (s : State) (t : Status) (q : List Word) :
    decodeErased p w (s.setHostView t q) = (decodeErased p w s).setHostView t q := by
  cases h : firstValid w p with
  | none => rw [decodeErased_none h, decodeErased_none h, ← decodeCommit_setHostView]; rfl
  | some v => rw [decodeErased_some h, decodeErased_some h, ← decodeCommit_setHostView]; rfl

theorem decodeStage_setHostView (s : State) (t : Status) (q : List Word) :
    decodeStage (s.setHostView t q) = (decodeStage s).setHostView t q := by
  have hn : (s.setHostView t q).nwords = s.nwords := rfl
  have hm : (s.setHostView t q).ermask = s.ermask := rfl
  simp only [decodeStage, hn, hm]
  split
  · rfl
  · split
    · rfl
    · split
      · exact decodeCommit_setHostView _ _ _ s t q
      · exact decodeErased_setHostView _ _ s t q
      · rfl

theorem repairAt_setHostView (p : Fin 14) (s : State) (t : Status) (q : List Word) :
    repairAt p (s.setHostView t q) = (repairAt p s).setHostView t q := by
  cases h : firstValid s.sym p with
  | none => rw [repairAt_none h, repairAt_none (s := s.setHostView t q) h]; rfl
  | some v => rw [repairAt_some h, repairAt_some (s := s.setHostView t q) h]; rfl

theorem execRepair_illegal {s : State} (h : eridxPos s.eridx = none) :
    execRepair s = .next (complete (raiseError .badEridx s)) := by
  simp only [execRepair, h, commandError]

theorem execRepair_legal {s : State} {p : Fin 14} (h : eridxPos s.eridx = some p) :
    execRepair s = .next (complete (repairAt p s)) := by
  simp only [execRepair, h]

/-- R72, R286: what a command stages is the same but for the Host's view, whatever that view is. -/
theorem exec_setHostView (i : Instr) (s : State) (t : Status) (q : List Word) :
    ∃ a b, exec i s = .next (complete a) ∧ exec i (s.setHostView t q) = .next (complete b) ∧ SameResults a b := by
  cases i with
  | repair =>
    cases h : eridxPos s.eridx with
    | none =>
      refine ⟨_, _, execRepair_illegal h, execRepair_illegal (s := s.setHostView t q) h, ?_⟩
      rw [raiseError_eq_setHostView, raiseError_eq_setHostView]
      exact sameResults_refl s
    | some p =>
      refine ⟨_, _, execRepair_legal h, execRepair_legal (s := s.setHostView t q) h, ?_⟩
      rw [repairAt_setHostView]
      exact sameResults_setHostView _ t q
  | decode =>
    refine ⟨decodeStage s, decodeStage (s.setHostView t q), rfl, rfl, ?_⟩
    rw [decodeStage_setHostView]
    exact sameResults_setHostView _ t q
  | encode => exact ⟨_, _, execEncode_eq s, execEncode_eq _, sameResults_setHostView _ t q⟩
  | srst => exact ⟨_, _, rfl, rfl, sameResults_refl (resetRegisters s)⟩
  | _ => exact ⟨_, _, rfl, rfl, sameResults_setHostView _ t q⟩

theorem sameResults_complete {s t : State} (h : SameResults s t) : SameResults (complete s) (complete t) := by
  obtain ⟨hsym, hrsv, hbday, hkey, hcoin, hnwords, hermask, heridx, hrepl, hie, -, -, hvalid, husable, hpstate,
    herasure⟩ := h
  exact ⟨hsym, hrsv, hbday, hkey, hcoin, hnwords, hermask, heridx, hrepl, hie, rfl, rfl, hvalid, husable, hpstate,
    herasure⟩

/-- Settles O17: the accesses reach the Host's view alone, which no command reads. -/
theorem resultsDoNotDependOnAccessesWhileBusy : Obligations.ResultsDoNotDependOnAccessesWhileBusy := by
  unfold Obligations.ResultsDoNotDependOnAccessesWhileBusy
  intro s i as hp
  obtain ⟨t, q, hall, -⟩ := serveAll_busy hp as
  obtain ⟨a, b, ha, hb, hab⟩ := exec_setHostView i s t q
  rw [hall]
  exact ⟨sameResults_refl s, fun r hr => regValue_setHostView hr s t q, complete a, complete b, ha, hb,
    sameResults_complete hab, rfl, rfl⟩

/-! ### What a read of STATUS shows -/

/-- R30: the bits of STATUS that a Host polls. -/
theorem statusWord_bits (t : Status) :
    (statusWord t).getLsbD 0 = t.busy ∧ (statusWord t).getLsbD 1 = t.done ∧ (statusWord t).getLsbD 7 = t.err := by
  simp only [statusWord, BitVec.getLsbD_append, BitVec.getLsbD_ofBool]
  simp

theorem serve_read_status {s : State} (hr : s.resetLine = false) :
    serve (.read 0x008 32) s = { s with replies := statusWord s.status :: s.replies } :=
  serve_read_reg hr .status

theorem serve_write_cmd_idle {s : State} (hr : s.resetLine = false) (hp : s.phase = .idle) (w : Word) :
    serve (.write 0x004 32 w) s = issue w s :=
  (serve_write hr _ _ _).trans (regWrite_cmd_idle hp w)

theorem eq_cmd_or_iclr_of_writeOnly {r : Reg} (h : regAccess r = .writeOnly) : r = .cmd ∨ r = .iclr := by
  cases r with
  | cmd => exact .inl rfl
  | iclr => exact .inr rfl
  | _ => cases h

/-- An access to the idle block that is no 32-bit write to CMD or ICLR leaves PHASE alone, and STATUS too unless it
is a bad access. -/
theorem serve_keepsDone {s : State} {a : Access} (hp : s.phase = .idle) (hr : s.resetLine = false) (ha : keepsDone a) :
    (serve a s).phase = s.phase ∧ (serve a s).resetLine = s.resetLine ∧
      ((serve a s).status = s.status ∨ (serve a s).status = raiseRecord .badAccess s.status) := by
  cases a with
  | read off bits =>
    rw [serve_read hr]
    obtain h | h := regRead_cases off bits s <;> rw [h]
    · exact ⟨rfl, rfl, .inl rfl⟩
    · exact ⟨rfl, rfl, .inr rfl⟩
  | write off bits v =>
    rw [serve_write hr]
    cases hs : supported off bits with
    | false => rw [regWrite_unsupported hs]; exact ⟨rfl, rfl, .inr rfl⟩
    | true =>
      obtain ⟨rfl, -⟩ := (supported_iff off bits).1 hs
      cases hreg : regAt off with
      | none => rw [regWrite_reserved hreg hs]; exact ⟨rfl, rfl, .inl rfl⟩
      | some r =>
        obtain rfl := regOffset_of_regAt hreg
        cases hacc : regAccess r with
        | readOnly => rw [regWrite_readOnly hacc]; exact ⟨rfl, rfl, .inl rfl⟩
        | writeOnly =>
          obtain rfl | rfl := eq_cmd_or_iclr_of_writeOnly hacc
          · exact absurd rfl (ha v).1
          · exact absurd rfl (ha v).2
        | readWrite =>
          obtain ⟨hstatus, hphase, hreset, -⟩ := regStore_frame s v r
          rw [regWrite_store_idle hacc hp]
          exact ⟨hphase, hreset, .inl hstatus⟩

/-- The idle block after a CMD write it has finished with: DONE = 1 is that command's (R71). -/
structure Finished (s : State) : Prop where
  idle     : s.phase = .idle
  released : s.resetLine = false
  notBusy  : s.status.busy = false
  done     : s.status.done = true

theorem serve_finished {s : State} {a : Access} (h : Finished s) (ha : keepsDone a) :
    Finished (serve a s) ∧ (s.status.err = true → (serve a s).status.err = true) := by
  obtain ⟨hp, hr, hstatus⟩ := serve_keepsDone h.idle h.released ha
  obtain hs | hs := hstatus
  · exact ⟨⟨hp.trans h.idle, hr.trans h.released, by rw [hs, h.notBusy], by rw [hs, h.done]⟩,
      fun he => by rw [hs, he]⟩
  · exact ⟨⟨hp.trans h.idle, hr.trans h.released, by rw [hs, raiseRecord_busy, h.notBusy],
      by rw [hs, raiseRecord_done, h.done]⟩, fun _ => by rw [hs, raiseRecord_err]⟩

theorem serveAll_finished {s : State} {bs : List Access} (h : Finished s) (hbs : ∀ a ∈ bs, keepsDone a) :
    Finished (serveAll bs s) ∧ (s.status.err = true → (serveAll bs s).status.err = true) := by
  refine List.foldlRecOn (motive := fun s' => Finished s' ∧ (s.status.err = true → s'.status.err = true)) bs _
    ⟨h, id⟩ fun s' hs' a ha => ?_
  obtain ⟨hfin, herr⟩ := serve_finished hs'.1 (hbs a ha)
  exact ⟨hfin, fun he => herr (hs'.2 he)⟩

/-- The accesses before the completion of a command just issued leave BUSY = 1 and DONE = 0. -/
theorem serveAll_issueLegal (i : Instr) (s : State) (as : List Access) :
    (serveAll as (issueLegal i.opcode s)).resetLine = s.resetLine ∧
      (serveAll as (issueLegal i.opcode s)).status.busy = true ∧
      (serveAll as (issueLegal i.opcode s)).status.done = false := by
  obtain ⟨t, q, h, hdone⟩ := serveAll_busy (issueLegal_phase i.opcode s) as
  rw [h]
  exact ⟨rfl, rfl, Bool.eq_false_iff.2 fun ht => Bool.false_ne_true (hdone ht)⟩

theorem exec_finishes (i : Instr) {s : State} (hr : s.resetLine = false) :
    ∃ t, exec i s = .next t ∧ Finished t := by
  obtain ⟨u, hu, hreset, -⟩ := exec_completes i s
  exact ⟨complete u, hu, rfl, hreset.trans hr, rfl, rfl⟩

theorem issueIllegal_finished {s : State} (hp : s.phase = .idle) (hr : s.resetLine = false)
    (hb : s.status.busy = false) : Finished (issueIllegal s) ∧ (issueIllegal s).status.err = true :=
  ⟨⟨hp, hr, (raiseRecord_busy .illegalCmd _).trans hb, rfl⟩, raiseRecord_err .illegalCmd _⟩

/-- Settles O16: a legal command is BUSY through any accesses and Finished from its completion on; an illegal word is
Finished, with ERR set, at once. -/
theorem statusReadAfterCommandWrite : Obligations.StatusReadAfterCommandWrite := by
  unfold Obligations.StatusReadAfterCommandWrite
  intro s w as bs hinv hp hr hbs
  rw [serve_write_cmd_idle hr hp]
  refine ⟨fun i hw => ?_, fun ⟨e, hw⟩ => ?_⟩
  · rw [issue_ok hw]
    obtain ⟨hreset, hbusy, hdone⟩ := serveAll_issueLegal i s as
    obtain ⟨t, ht, hfin⟩ := exec_finishes i (hreset.trans hr)
    obtain ⟨hafter, -⟩ := serveAll_finished hfin hbs
    obtain ⟨b0, b1, -⟩ := statusWord_bits (serveAll as (issueLegal i.opcode s)).status
    obtain ⟨c0, c1, -⟩ := statusWord_bits (serveAll bs t).status
    exact ⟨⟨_, serve_read_status (hreset.trans hr), b0.trans hbusy, b1.trans hdone⟩,
      t, _, ht, serve_read_status hafter.released, c0.trans hafter.notBusy, c1.trans hafter.done⟩
  · rw [issue_error hw]
    have hidle : s.status.busy = false := Bool.eq_false_iff.2 fun hb => hinv.busy_iff.1 hb hp
    obtain ⟨hfin, herr⟩ := issueIllegal_finished hp hr hidle
    obtain ⟨hafter, hkeep⟩ := serveAll_finished hfin hbs
    obtain ⟨b0, b1, b7⟩ := statusWord_bits (serveAll bs (issueIllegal s)).status
    exact ⟨_, serve_read_status hafter.released, b0.trans hafter.notBusy, b1.trans hafter.done,
      b7.trans (hkeep herr)⟩

end Sys2Proof.Machine
end

section
/-! The command word: which words decode, to what, and what a write of one that does not decode does: O1, O2 and O3
(R90, R92, R93, R100). -/

namespace Sys2Proof

/-! ### The words of the commands -/

@[simp] theorem decode_encode (i : Instr) : decode (encode i) = .ok i :=
  (decode_latch i.opcode i).2 rfl

/-- R90, R92: a command's word is its opcode under clear reserved bits. -/
theorem encode_eq_toWord (i : Instr) : encode i = CmdFields.toWord ⟨0, i.opcode⟩ :=
  BitVec.setWidth_eq_append (by decide)

/-- R92: with the reserved bits clear, the opcode map decides. -/
theorem decode_toWord_ofOpcode (op : BitVec 4) :
    decode (CmdFields.toWord ⟨0, op⟩) = (opcodeInstr op).elim (.error (.reservedOpcode op)) .ok := by
  rw [decode_toWord, if_pos rfl]
  cases opcodeInstr op <;> rfl

/-- A word that decodes has its reserved bits clear and the command's opcode. -/
theorem ofWord_of_decode_ok {w : Word} {i : Instr} (h : decode w = .ok i) : CmdFields.ofWord w = ⟨0, i.opcode⟩ := by
  obtain ⟨f, rfl⟩ : ∃ f : CmdFields, w = f.toWord := ⟨_, (CmdFields.toWord_ofWord w).symm⟩
  obtain ⟨m, op⟩ := f
  rw [decode_toWord] at h
  rw [CmdFields.ofWord_toWord]
  split at h
  case isTrue hm =>
    obtain rfl : m = 0 := hm
    cases hop : opcodeInstr op with
    | none => simp [hop] at h
    | some j =>
      obtain rfl : j = i := by simpa [hop] using h
      rw [(opcodeInstr_eq_some_iff op j).1 hop]
  case isFalse => cases h

/-- R100: the words that decode to a command are its own word alone. -/
theorem decode_eq_ok_iff (w : Word) (i : Instr) : decode w = .ok i ↔ w = encode i := by
  constructor
  · intro h
    rw [encode_eq_toWord, ← ofWord_of_decode_ok h, CmdFields.toWord_ofWord]
  · rintro rfl
    exact decode_encode i

theorem encode_injective {i j : Instr} (h : encode i = encode j) : i = j := by
  have hj : decode (encode i) = .ok j := (decode_eq_ok_iff _ j).2 h
  rw [decode_encode] at hj
  exact Except.ok.inj hj

/-! ### The illegal words -/

/-- R93: a word is illegal exactly when its fields are not well formed. -/
theorem decode_error_iff_not_wf (w : Word) : (∃ e, decode w = .error e) ↔ (CmdFields.ofWord w).wf ≠ true := by
  rw [ne_eq, ← decode_isOk_iff_wf]
  cases decode w <;> simp [Except.toOption]

theorem CmdFields.wf_ne_true_iff (f : CmdFields) : f.wf ≠ true ↔ 0xB ≤ f.op.toNat ∨ f.mbz ≠ 0 := by
  rw [CmdFields.wf, CmdFields.mbzClear, CmdFields.opDefined, ne_eq, Bool.and_eq_true, beq_iff_eq, decide_eq_true_eq,
    not_and_or, not_lt, or_comm]

/-- R90: OP is bits 3:0. -/
theorem CmdFields.ofWord_op_toNat (w : Word) : (CmdFields.ofWord w).op.toNat = w.toNat % 16 :=
  BitVec.extractLsb'_toNat 0 4 w

/-- R90: the reserved bits are bits 31:4. -/
theorem CmdFields.ofWord_mbz_ne_zero_iff (w : Word) :
    (CmdFields.ofWord w).mbz ≠ 0 ↔ ∃ k, 4 ≤ k ∧ k < 32 ∧ w.getLsbD k = true := by
  constructor
  · intro h
    by_contra hnone
    refine h (BitVec.eq_of_getLsbD_eq fun j hj => ?_)
    have hbit : w.getLsbD (4 + j) ≠ true := fun ht => hnone ⟨4 + j, by omega, by omega, ht⟩
    simpa [CmdFields.ofWord, hj] using hbit
  · rintro ⟨k, hlow, hhigh, hbit⟩ h
    have hclear : (CmdFields.ofWord w).mbz.getLsbD (k - 4) = false := by rw [h]; simp
    rw [CmdFields.ofWord, BitVec.getLsbD_extractLsb', Nat.add_sub_cancel' hlow, hbit] at hclear
    simp [show k - 4 < 28 by omega] at hclear

/-- R93: the illegal words. -/
theorem decode_error_iff (w : Word) :
    (∃ e, decode w = .error e) ↔ 0xB ≤ w.toNat % 16 ∨ ∃ k, 4 ≤ k ∧ k < 32 ∧ w.getLsbD k = true := by
  rw [decode_error_iff_not_wf, CmdFields.wf_ne_true_iff, CmdFields.ofWord_op_toNat, CmdFields.ofWord_mbz_ne_zero_iff]

/-- Settles O1: the commands' words decode back, and a reserved opcode is one the opcode map does not know. -/
theorem opcodeMapReadsEveryCommandWord : Obligations.OpcodeMapReadsEveryCommandWord := by
  unfold Obligations.OpcodeMapReadsEveryCommandWord
  exact ⟨decode_encode .nop, decode_encode .pack, decode_encode .unpack, decode_encode .genchk, decode_encode .verify,
    decode_encode .flag, decode_encode .unflag, decode_encode .repair, decode_encode .decode, decode_encode .encode,
    decode_encode .srst, decode_toWord_ofOpcode 0xB, decode_toWord_ofOpcode 0xC, decode_toWord_ofOpcode 0xD,
    decode_toWord_ofOpcode 0xE, decode_toWord_ofOpcode 0xF, fun _ => rfl⟩

/-- Settles O2: a word decodes to a command exactly when it is that command's word. -/
theorem decodeAcceptsExactlyTheCommandWords : Obligations.DecodeAcceptsExactlyTheCommandWords := by
  unfold Obligations.DecodeAcceptsExactlyTheCommandWords
  intro w
  cases h : decode w with
  | ok i =>
    obtain rfl := (decode_eq_ok_iff w i).1 h
    exact .inl ⟨i, rfl, rfl, fun j hj => (encode_injective hj).symm⟩
  | error e =>
    refine .inr ⟨⟨e, rfl⟩, fun j hj => ?_⟩
    rw [(decode_eq_ok_iff w j).2 hj] at h
    cases h

end Sys2Proof

namespace Sys2Proof.Machine

open Sys2Proof.Statements

/-! ### A write to CMD that issues nothing -/

/-- R93, R251: ILLEGAL_CMD, whose code is 1, raised after DONE <- 0 and before DONE <- 1. -/
theorem issueIllegal_eq (s : State) :
    issueIllegal s =
      { s with status := { recordError 1 { s.status with done := false } with done := true } } := rfl

/-- R287: BUSY_WRITE, whose code is 2, whatever the word. -/
theorem serve_write_cmd_busy {s : State} {op : BitVec 4} (hr : s.resetLine = false) (hp : s.phase = .busy op)
    (w : Word) : serve (.write 0x004 32 w) s = { s with status := recordError 2 s.status } :=
  (serve_write hr _ _ _).trans (regWrite_busy (r := .cmd) (by decide) (by decide) hp w)

/-- Settles O3: the illegal words are those of `decode_error_iff`, and a write of one issues nothing. -/
theorem illegalWordIsReportedAndChangesNothingElse : Obligations.IllegalWordIsReportedAndChangesNothingElse := by
  unfold Obligations.IllegalWordIsReportedAndChangesNothingElse
  intro w s hr
  refine ⟨decode_error_iff w, fun ⟨e, he⟩ hp => ?_, fun op hp => serve_write_cmd_busy hr hp w⟩
  rw [serve_write_cmd_idle hr hp, issue_error he, issueIllegal_eq]

end Sys2Proof.Machine
end

section
/-! The powers of α = 2: `⊗` by a power of α is repeated `mul2`, α has order 2047, and so every nonzero symbol is a
power of α and has the inverse `a^2046`: O30 and O32 (R122 to R124). -/

namespace Sys2Proof.Machine

/-! ### Multiplication by α -/

theorem mul2_toNat_of_lt {a : Sym11} (h : a.toNat < 1024) : (mul2 a).toNat = 2 * a.toNat := by
  have hlt : a < 1024#11 := h
  rw [mul2, if_pos hlt, BitVec.toNat_mul]
  exact Nat.mod_eq_of_lt (by change 2 * a.toNat < 2048; omega)

theorem mul2_toNat_of_ge {a : Sym11} (h : ¬ a.toNat < 1024) : (mul2 a).toNat = (2 * a.toNat % 2048) ^^^ 5 := by
  have hge : ¬ a < 1024#11 := h
  rw [mul2, if_neg hge, gfAdd_def, BitVec.toNat_xor, BitVec.toNat_mul]
  rfl

/-- Settles O30, by the two cases of the rule. -/
theorem multiplicationByAlpha : Obligations.MultiplicationByAlpha := by
  unfold Obligations.MultiplicationByAlpha
  refine ⟨fun a => ?_, by decide, by decide, by decide, by decide⟩
  split
  case isTrue h => exact mul2_toNat_of_lt h
  case isFalse h => exact mul2_toNat_of_ge h

/-! ### The product with a power of α -/

@[simp] theorem gfMul_one (a : Sym11) : gfMul a 1 = a :=
  additive_ext (gfMul · 1) id (fun _ _ => gfMul_xor_left _ _ _) (fun _ _ => rfl) (by decide +kernel) a

/-- Both sides are additive in `a` and in `b`, so the powers of `x` below `x^11` decide. -/
theorem gfMul_mul2 (a b : Sym11) : gfMul a (mul2 b) = mul2 (gfMul a b) := by
  have powers : ∀ j < 11, ∀ k < 11, gfMul (1 <<< j) (mul2 (1 <<< k)) = mul2 (gfMul (1 <<< j) (1 <<< k)) := by
    decide +kernel
  refine additive_ext (fun b => gfMul a (mul2 b)) (fun b => mul2 (gfMul a b)) ?_ ?_ (fun k hk => ?_) b
  · simp [mul2_xor, gfMul_xor_right]
  · simp [mul2_xor, gfMul_xor_right]
  refine additive_ext (fun a => gfMul a (mul2 (1 <<< k))) (fun a => mul2 (gfMul a (1 <<< k))) ?_ ?_
    (fun j hj => powers j hj k hk) a
  · simp [gfMul_xor_left]
  · simp [mul2_xor, gfMul_xor_left]

theorem gfMul_shiftBy (a b : Sym11) (k : Nat) : gfMul a (shiftBy k b) = shiftBy k (gfMul a b) := by
  induction k with
  | zero => rfl
  | succ k ih => rw [shiftBy_succ, gfMul_mul2, ih, ← shiftBy_succ]

theorem gfMul_shiftBy_one (a : Sym11) (k : Nat) : gfMul a (shiftBy k 1) = shiftBy k a := by
  rw [gfMul_shiftBy, gfMul_one]

theorem shiftBy_add (m n : Nat) (a : Sym11) : shiftBy (m + n) a = shiftBy m (shiftBy n a) :=
  Function.iterate_add_apply mul2 m n a

theorem shiftBy_comm (m n : Nat) (a : Sym11) : shiftBy m (shiftBy n a) = shiftBy n (shiftBy m a) := by
  rw [← shiftBy_add, Nat.add_comm, shiftBy_add]

/-- `α^k` is `mul2` applied `k` times to 1. -/
theorem gfPow_two (k : Nat) : gfPow 2 k = shiftBy k 1 := by
  induction k with
  | zero => rfl
  | succ k ih =>
    have htwo : (2 : Sym11) = shiftBy 1 1 := rfl
    rw [gfPow, ih, htwo, gfMul_shiftBy_one, ← shiftBy_add, Nat.add_comm]

theorem gfMul_gfPow_two (a : Sym11) (k : Nat) : gfMul a (gfPow 2 k) = shiftBy k a := by
  rw [gfPow_two, gfMul_shiftBy_one]

theorem one_shiftLeft_eq_shiftBy {k : Nat} (h : k < 11) : (1 <<< k : Sym11) = shiftBy k 1 := by
  revert k; decide +kernel

/-! ### The laws of powers -/

/-- Additive in the last factor, so the powers of α decide. -/
theorem gfMul_assoc (a b d : Sym11) : gfMul (gfMul a b) d = gfMul a (gfMul b d) := by
  refine additive_ext (gfMul (gfMul a b)) (fun d => gfMul a (gfMul b d)) ?_ ?_ (fun k hk => ?_) d
  · exact gfMul_xor_right _
  · simp [gfMul_xor_right]
  · simp only [one_shiftLeft_eq_shiftBy hk, gfMul_shiftBy, gfMul_one]

@[simp] theorem one_gfMul (a : Sym11) : gfMul 1 a = a := by
  refine additive_ext (gfMul 1) id (gfMul_xor_right 1) (fun _ _ => rfl) (fun k hk => ?_) a
  rw [one_shiftLeft_eq_shiftBy hk, gfMul_shiftBy_one, id]

theorem gfPow_succ (a : Sym11) (n : Nat) : gfPow a (n + 1) = gfMul (gfPow a n) a := rfl

@[simp] theorem gfPow_one (a : Sym11) : gfPow a 1 = a := one_gfMul a

theorem gfPow_add (a : Sym11) (m n : Nat) : gfPow a (m + n) = gfMul (gfPow a m) (gfPow a n) := by
  induction n with
  | zero => exact (gfMul_one _).symm
  | succ n ih => rw [← Nat.add_assoc, gfPow_succ, ih, gfMul_assoc, ← gfPow_succ]

theorem gfPow_gfPow (a : Sym11) (m n : Nat) : gfPow (gfPow a m) n = gfPow a (m * n) := by
  induction n with
  | zero => rfl
  | succ n ih => rw [gfPow_succ, ih, ← gfPow_add, Nat.mul_succ]

theorem one_gfPow (n : Nat) : gfPow 1 n = 1 := by
  induction n with
  | zero => rfl
  | succ n ih => rw [gfPow_succ, ih, gfMul_one]

/-- The loop of `gfInv` after `n` turns: the square reached and the product so far. -/
theorem gfInv_loop (a : Sym11) (n : Nat) :
    (List.range n).foldl (fun x _ => (gfMul x.1 x.1, gfMul x.2 (gfMul x.1 x.1))) (a, (1 : Sym11)) =
      (gfPow a (2 ^ n), gfPow a (2 ^ (n + 1) - 2)) := by
  induction n with
  | zero => simp [gfPow]
  | succ n ih =>
    have hsquare : 2 ^ n + 2 ^ n = 2 ^ (n + 1) := by omega
    have hproduct : 2 ^ (n + 1) - 2 + 2 ^ (n + 1) = 2 ^ (n + 1 + 1) - 2 := by
      have : 2 ≤ 2 ^ (n + 1) := Nat.le_self_pow n.succ_ne_zero 2
      omega
    simp only [List.range_succ, List.foldl_append, ih, List.foldl_cons, List.foldl_nil]
    rw [← gfPow_add, ← gfPow_add, hsquare, hproduct]

theorem gfInv_eq_gfPow (a : Sym11) : gfInv a = gfPow a 2046 := congrArg Prod.snd (gfInv_loop a 10)

/-! ### The order of α -/

theorem gfPow_two_2047 : gfPow 2 2047 = 1 := by
  rw [gfPow_succ, ← gfInv_eq_gfPow]
  decide +kernel

/-- The order divides 2047 = 23 · 89, and is none of the smaller divisors. -/
theorem minimalPeriod_mul2_one : Function.minimalPeriod mul2 1 = 2047 := by
  have hperiod : Function.IsPeriodicPt mul2 2047 1 := (gfPow_two 2047).symm.trans gfPow_two_2047
  have hreturn : shiftBy (Function.minimalPeriod mul2 1) 1 = 1 := Function.iterate_minimalPeriod
  have hmem : Function.minimalPeriod mul2 1 ∈ insert 2047 ({1, 23, 89} : Finset Nat) := by
    have hdivisors : Nat.divisors 2047 = insert 2047 {1, 23, 89} := by decide +kernel
    rw [← hdivisors]
    exact Nat.mem_divisors.2 ⟨hperiod.minimalPeriod_dvd, by decide⟩
  have hsmall : ∀ d ∈ ({1, 23, 89} : Finset Nat), shiftBy d 1 ≠ 1 := by decide +kernel
  exact (Finset.mem_insert.1 hmem).resolve_right fun h => hsmall _ h hreturn

theorem shiftBy_one_injOn : Set.InjOn (fun k => shiftBy k 1) (Set.Iio 2047) := by
  have := Function.iterate_injOn_Iio_minimalPeriod (f := mul2) (x := 1)
  rwa [minimalPeriod_mul2_one] at this

theorem shiftBy_eq_zero_iff {k : Nat} {a : Sym11} : shiftBy k a = 0 ↔ a = 0 :=
  ⟨fun h => shiftBy_injective k (h.trans (shiftBy_of_zero k).symm), fun h => h ▸ shiftBy_of_zero k⟩

theorem card_sym11 : Fintype.card Sym11 = 2048 := by
  rw [Fintype.card_congr BitVec.equivFin.toEquiv, Fintype.card_fin]
  rfl

/-- The 2047 powers of α are the 2047 nonzero symbols. -/
theorem exists_shiftBy_one {a : Sym11} (h : a ≠ 0) : ∃ k, shiftBy k 1 = a := by
  have hsub : (Finset.range 2047).image (fun k => shiftBy k 1) ⊆ Finset.univ.erase 0 := by
    intro b hb
    obtain ⟨k, -, rfl⟩ := Finset.mem_image.1 hb
    exact Finset.mem_erase.2 ⟨mt shiftBy_eq_zero_iff.1 (by decide), Finset.mem_univ _⟩
  have hcard : ((Finset.range 2047).image fun k => shiftBy k 1).card = 2047 := by
    rw [Finset.card_image_of_injOn (by simpa using shiftBy_one_injOn), Finset.card_range]
  have hnonzero : (Finset.univ.erase (0 : Sym11)).card = 2047 := by
    rw [Finset.card_erase_of_mem (Finset.mem_univ _), Finset.card_univ, card_sym11]
  have hall := Finset.eq_of_subset_of_card_le hsub (by rw [hcard, hnonzero])
  obtain ⟨k, -, hk⟩ := Finset.mem_image.1 (hall ▸ Finset.mem_erase.2 ⟨h, Finset.mem_univ a⟩)
  exact ⟨k, hk⟩

/-- A nonzero symbol is a power of α, whose order is 2047. -/
theorem gfPow_2047 {a : Sym11} (h : a ≠ 0) : gfPow a 2047 = 1 := by
  obtain ⟨k, rfl⟩ := exists_shiftBy_one h
  rw [← gfPow_two, gfPow_gfPow, Nat.mul_comm, ← gfPow_gfPow, gfPow_two_2047, one_gfPow]

theorem gfMul_gfInv {a : Sym11} (h : a ≠ 0) : gfMul a (gfInv a) = 1 := by
  calc gfMul a (gfInv a) = gfMul (gfPow a 1) (gfPow a 2046) := by rw [gfPow_one, gfInv_eq_gfPow]
    _ = gfPow a 2047 := (gfPow_add a 1 2046).symm
    _ = 1 := gfPow_2047 h

/-- Settles O32: α has order 2047, so its powers are all nonzero symbols, each with 2047th power 1. -/
theorem alphaIsPrimitive : Obligations.AlphaIsPrimitive := by
  unfold Obligations.AlphaIsPrimitive
  refine ⟨gfPow_two_2047, fun k hk hlt h => ?_, by decide +kernel, by decide +kernel, by decide +kernel,
    fun a => ⟨gfInv_eq_gfPow a, gfMul_gfInv⟩⟩
  rw [gfPow_two] at h
  exact hk.ne' (shiftBy_one_injOn hlt (show 0 < 2047 by decide) h)

end Sys2Proof.Machine
end

section
/-! The evaluation of a codeword as the sum of its symbols times the powers of α, and what that says of the check
symbol and of changed symbols; the flag arithmetic: O33 to O36 (R125 to R129). -/

namespace Sys2Proof.Machine

open Sys2Proof.Statements

/-! ### The evaluation as a sum -/

/-! `BitVec`'s laws of `^^^`, at the model's numeral `0`. -/

theorem zero_xor_sym11 (a : Sym11) : 0 ^^^ a = a := BitVec.zero_xor

theorem xor_zero_sym11 (a : Sym11) : a ^^^ 0 = a := BitVec.xor_zero

theorem xor_sym11_eq_zero_iff {a b : Sym11} : a ^^^ b = 0 ↔ a = b := BitVec.xor_eq_zero_iff

/-- A sum under `⊕` started at `a` is `a ⊕` the sum. -/
theorem foldl_xor_start {ι : Type} (l : List ι) (f : ι → Sym11) (a : Sym11) :
    l.foldl (fun r i => r ^^^ f i) a = a ^^^ l.foldl (fun r i => r ^^^ f i) 0 := by
  induction l generalizing a with
  | nil => simp
  | cons i l ih => rw [List.foldl_cons, List.foldl_cons, ih, ih (0 ^^^ f i), BitVec.xor_assoc, zero_xor_sym11]

/-- The Horner loop over `n` symbols: symbol `i` ends multiplied by `x^(n−1−i)`. -/
theorem hornerFold_eq_sum {n : Nat} (f : Fin n → Sym11) :
    (List.ofFn f).foldl (fun r v => gfAdd (mul2 r) v) 0 =
      (List.finRange n).foldl (fun r i => r ^^^ shiftBy (n - 1 - i.val) (f i)) 0 := by
  induction n with
  | zero => rfl
  | succ n ih =>
    have hfirst : n + 1 - 1 - (0 : Fin (n + 1)).val = n := rfl
    have hexp (i : Fin n) : n + 1 - 1 - i.succ.val = n - 1 - i.val := by simp; omega
    rw [List.ofFn_succ, List.foldl_cons, hornerFold_start, ih, List.length_ofFn, mul2_zero, gfAdd_def,
      List.finRange_succ, List.foldl_cons, List.foldl_map, foldl_xor_start _ _ (0 ^^^ _)]
    simp only [hexp, hfirst, zero_xor_sym11]

theorem toList_eq_ofFn (w : Codeword) : w.toList = List.ofFn w.get := by
  refine List.ext_getElem (by simp) fun i _ _ => ?_
  rw [Vector.getElem_toList, List.getElem_ofFn, Vector.get_eq_getElem]

/-- R125's sum. -/
theorem horner_eq_sum (w : Codeword) :
    horner w = (List.finRange 14).foldl (fun r p => r ^^^ gfMul (w.get p) (gfPow 2 (13 - p.val))) 0 := by
  simp only [gfMul_gfPow_two]
  rw [horner_eq, toList_eq_ofFn, hornerFold_eq_sum]

/-- R125's loop, by positions. -/
theorem horner_eq_loop (w : Codeword) : horner w = (List.finRange 14).foldl (fun r p => mul2 r ^^^ w.get p) 0 := by
  rw [horner_eq, toList_eq_ofFn, List.ofFn_eq_map, List.foldl_map]
  rfl

/-- Settles O33, by positions and by powers of α; the model's sum has the statement's powers as its weights. -/
theorem hornerIsTheCodewordSum : Obligations.HornerIsTheCodewordSum := by
  unfold Obligations.HornerIsTheCodewordSum
  exact fun w => ⟨horner_eq_loop w, horner_eq_sum w, horner_eq_sum w⟩

/-! ### The check symbol -/

/-- R127's sum: the check position is empty and adds nothing. -/
theorem checksym_pop_eq_checkSum (w : Codeword) : checksym w.pop = checkSum w := by
  rw [checksym_eq, horner_eq_sum, List.finRange_succ_last, List.foldl_append, List.foldl_map]
  have hlast : (w.pop.push 0).get (Fin.last 13) = 0 := by simp [Vector.get_eq_getElem]
  have hrest (j : Fin 13) : (w.pop.push 0).get j.castSucc = w.get j.castSucc := by simp [Vector.get_eq_getElem]
  simp only [hrest, List.foldl_cons, List.foldl_nil, hlast, gfMul_gfPow_two, shiftBy_of_zero, xor_zero_sym11, checkSum,
    Fin.val_castSucc]

theorem horner_push_eq_zero_iff (u : PayloadSyms) (v : Sym11) : horner (u.push v) = 0 ↔ v = checksym u := by
  rw [horner_push, xor_sym11_eq_zero_iff, eq_comm]

/-- Settles O34: the evaluation is the check symbol `⊕` the last symbol. -/
theorem checkSymbolMakesTheCodewordValid : Obligations.CheckSymbolMakesTheCodewordValid := by
  unfold Obligations.CheckSymbolMakesTheCodewordValid
  exact fun w => ⟨checksym_eq w.pop, checksym_pop_eq_checkSum w, (horner_push_eq_zero_iff _ _).2 rfl,
    fun v => (horner_push_eq_zero_iff w.pop v).1⟩

/-! ### Changed symbols -/

/-- In a valid codeword the change alone is left. -/
theorem horner_set_of_valid {w : Codeword} (h : horner w = 0) (p : Fin 14) (v : Sym11) :
    horner (w.set p v) = shiftBy (13 - p.val) (w.get p ^^^ v) := by
  rw [horner_set, h, xor_zero_sym11]

/-- Different powers of α below its order move a nonzero symbol to different places. -/
theorem shiftBy_left_injective {m n : Nat} {d : Sym11} (hd : d ≠ 0) (hm : m < 2047) (hn : n < 2047)
    (h : shiftBy m d = shiftBy n d) : m = n := by
  obtain ⟨k, rfl⟩ := exists_shiftBy_one hd
  rw [shiftBy_comm m, shiftBy_comm n] at h
  exact shiftBy_one_injOn hm hn (shiftBy_injective k h)

theorem horner_set_ne_zero {w : Codeword} (h : horner w = 0) {p : Fin 14} {v : Sym11} (hv : v ≠ w.get p) :
    horner (w.set p v) ≠ 0 := by
  rw [horner_set_of_valid h, Ne, shiftBy_eq_zero_iff, xor_sym11_eq_zero_iff]
  exact hv.symm

/-- An exchange makes the same change at two positions, times two different powers of α. -/
theorem horner_swap_ne_zero {w : Codeword} (h : horner w = 0) {p q : Fin 14} (hpq : p ≠ q)
    (hne : w.get p ≠ w.get q) : horner ((w.set p (w.get q)).set q (w.get p)) ≠ 0 := by
  have hval : p.val ≠ q.val := fun e => hpq (Fin.ext e)
  have hget : (w.set p (w.get q)).get q = w.get q := by simp [Vector.get_eq_getElem, Vector.getElem_set_ne _ _ hval]
  have hdiff : w.get p ^^^ w.get q ≠ 0 := fun e => hne (xor_sym11_eq_zero_iff.1 e)
  rw [horner_set, hget, horner_set_of_valid h, BitVec.xor_comm (w.get q), Ne, xor_sym11_eq_zero_iff]
  intro heq
  have := shiftBy_left_injective hdiff (by omega) (by omega) heq
  omega

/-- Settles O35. The undetected double change puts `1, α` at the last two positions of the zero codeword. -/
theorem singleCorruptionAndTranspositionDetected : Obligations.SingleCorruptionAndTranspositionDetected := by
  unfold Obligations.SingleCorruptionAndTranspositionDetected
  refine ⟨fun w p v h => ?_, fun w p v h => horner_set_ne_zero h, fun w p q h => horner_swap_ne_zero h,
    ⟨Vector.replicate 14 0, 12, 13, 1, 2, by decide +kernel⟩, by decide +kernel⟩
  rw [horner_set_of_valid h, gfMul_gfPow_two]

/-! ### The flag arithmetic -/

theorem add11_toNat (a b : Sym11) : (add11 a b).toNat = (a.toNat + b.toNat) % 2048 := BitVec.toNat_add a b

theorem sub11_toNat (a b : Sym11) : (sub11 a b).toNat = (a.toNat + 2048 - b.toNat) % 2048 := by
  have hb : b.toNat < 2048 := b.isLt
  rw [sub11, BitVec.toNat_sub, show 2 ^ 11 - b.toNat + a.toNat = a.toNat + 2048 - b.toNat by omega]

/-- Settles O36, from the laws of `BitVec`'s addition and subtraction. -/
theorem flagArithmeticIsModulo2048 : Obligations.FlagArithmeticIsModulo2048 := by
  unfold Obligations.FlagArithmeticIsModulo2048
  exact fun a b => ⟨add11_toNat a b, sub11_toNat a b, BitVec.add_sub_cancel a b, BitVec.sub_add_cancel a b,
    by decide, by decide⟩

end Sys2Proof.Machine
end

section
/-! PACK and UNPACK: the payload and its 13 symbols as numbers, the slices of a payload and the join of symbols as
exact inverses, and the two commands as whole next states: O40 to O42 (R95, R96, R140 to R142). -/

namespace Sys2Proof.Machine

open Sys2Proof.Statements

/-! ### The symbols of a vector with and without its check symbol -/

theorem pop_get (w : Codeword) (j : Fin 13) : w.pop.get j = w.get j.castSucc := by
  simp [Vector.get_eq_getElem]

theorem push_get_castSucc (v : PayloadSyms) (x : Sym11) (j : Fin 13) : (v.push x).get j.castSucc = v.get j := by
  simp [Vector.get_eq_getElem, Vector.getElem_push_lt]

theorem push_get_last (v : PayloadSyms) (x : Sym11) : (v.push x).get 13 = x := Vector.getElem_push_eq

/-! ### Payload and symbols as numbers -/

/-- A joined word as a number: the high word moves up by the width of the low one. -/
theorem toNat_append_eq_add {m n : Nat} (x : BitVec m) (y : BitVec n) :
    (x ++ y).toNat = x.toNat * 2 ^ n + y.toNat := by
  rw [BitVec.toNat_append, ← Nat.shiftLeft_add_eq_or_of_lt y.isLt, Nat.shiftLeft_eq]

/-- R95: the value of the payload. -/
theorem payload_toNat (r : BitVec 5) (b : BitVec 10) (k : BitVec 128) :
    (payload r b k).toNat = payloadNat r b k := by
  rw [payload, toNat_append_eq_add, toNat_append_eq_add, payloadNat, Nat.add_mul, Nat.mul_assoc, ← Nat.pow_add]

/-- R96: the value of payload symbol `j`. -/
theorem packSyms_get_toNat (p : Payload) (j : Fin 13) :
    ((packSyms p).get j).toNat = p.toNat / 2 ^ (132 - 11 * j.val) % 2048 := by
  rw [packSyms, Vector.get_ofFn, BitVec.extractLsb'_toNat, Nat.shiftRight_eq_div_pow]

/-- R141: the value of the joined symbols. -/
theorem unpackSyms_toNat (v : PayloadSyms) :
    (unpackSyms v).toNat = ∑ j : Fin 13, (v.get j).toNat * 2 ^ (132 - 11 * j.val) := by
  simp only [unpackSyms, toNat_append_eq_add, Fin.sum_univ_castSucc, Finset.univ_eq_empty, Finset.sum_empty,
    Vector.get_eq_getElem, Fin.val_castSucc, Fin.val_last, Nat.reduceMul, Nat.reduceSub]
  omega

/-- R141: UNPACK reads SYM[0..12] as the statement's number. -/
theorem unpackSyms_pop_toNat (w : Codeword) : (unpackSyms w.pop).toNat = symbolsNat w := by
  simp only [unpackSyms_toNat, pop_get, symbolsNat]

/-! ### The two directions undo each other -/

/-- The weight of payload symbol `j` in the base 2048 of the symbols. -/
theorem two_pow_symbol_weight (j : Fin 13) : 2 ^ (132 - 11 * j.val) = 2048 ^ j.rev.val := by
  have h : 132 - 11 * j.val = 11 * j.rev.val := by rw [Fin.val_rev]; omega
  rw [h, Nat.pow_mul]

/-- The joined symbols as a number in base 2048, the least significant digit first. -/
theorem unpackSyms_toNat_digits (v : PayloadSyms) :
    (unpackSyms v).toNat = ∑ i : Fin 13, (v.get i.rev).toNat * 2048 ^ i.val := by
  simp only [unpackSyms_toNat, two_pow_symbol_weight]
  exact Fintype.sum_equiv Fin.revPerm _ _ fun j => by rw [Fin.revPerm_apply, Fin.rev_rev]

/-- The digits of a number made of digits in base 2048 are those digits. -/
theorem sum_mul_pow_div_mod {n : Nat} (d : Fin n → Sym11) (j : Fin n) :
    (∑ i, (d i).toNat * 2048 ^ i.val) / 2048 ^ j.val % 2048 = (d j).toNat :=
  congrArg Fin.val (congrFun (finFunctionFinEquiv.left_inv fun i => (d i).toFin) j)

/-- A number is what its digits in base 2048 make. -/
theorem sum_div_mod_mul_pow {n a : Nat} (h : a < 2048 ^ n) :
    ∑ i : Fin n, a / 2048 ^ i.val % 2048 * 2048 ^ i.val = a :=
  congrArg Fin.val (finFunctionFinEquiv.right_inv ⟨a, h⟩)

/-- R142: the symbols are the digits of the number they make. -/
theorem packSyms_unpackSyms (v : PayloadSyms) : packSyms (unpackSyms v) = v := by
  have hget (j : Fin 13) : (packSyms (unpackSyms v)).get j = v.get j := by
    apply BitVec.eq_of_toNat_eq
    rw [packSyms_get_toNat, two_pow_symbol_weight, unpackSyms_toNat_digits, sum_mul_pow_div_mod fun i => v.get i.rev,
      Fin.rev_rev]
  exact Vector.ext fun i hi => hget ⟨i, hi⟩

/-- R142: a payload is the number that its digits make. -/
theorem unpackSyms_packSyms (p : Payload) : unpackSyms (packSyms p) = p := by
  apply BitVec.eq_of_toNat_eq
  simp only [unpackSyms_toNat_digits, packSyms_get_toNat, two_pow_symbol_weight, Fin.rev_rev]
  exact sum_div_mod_mul_pow p.isLt

@[simp] theorem payloadRsv_payload (r : BitVec 5) (b : BitVec 10) (k : BitVec 128) :
    payloadRsv (payload r b k) = r := by
  rw [payloadRsv, payload, BitVec.extractLsb'_append_eq_of_le (by decide)]
  exact BitVec.extractLsb'_append_eq_left

@[simp] theorem payloadBday_payload (r : BitVec 5) (b : BitVec 10) (k : BitVec 128) :
    payloadBday (payload r b k) = b := by
  rw [payloadBday, payload, BitVec.extractLsb'_append_eq_of_le (by decide)]
  exact BitVec.extractLsb'_append_eq_right

@[simp] theorem payloadKey_payload (r : BitVec 5) (b : BitVec 10) (k : BitVec 128) :
    payloadKey (payload r b k) = k :=
  BitVec.extractLsb'_append_eq_right

/-- R95: a payload is its three fields joined. -/
@[simp] theorem payload_fields (p : Payload) : payload (payloadRsv p) (payloadBday p) (payloadKey p) = p := by
  have hhigh : payloadRsv p ++ payloadBday p = p.extractLsb' 128 15 :=
    BitVec.extractLsb'_append_extractLsb'_eq_extractLsb' rfl
  calc payloadRsv p ++ payloadBday p ++ payloadKey p
      = p.extractLsb' 128 15 ++ p.extractLsb' 0 128 := by rw [hhigh, payloadKey]
    _ = p := BitVec.extractLsb'_append_extractLsb'

/-! ### The commands -/

/-- R140: PACK as a whole next state. -/
theorem exec_pack (s : State) :
    exec .pack s = .next { s with
      sym := (packSyms (payload s.rsv s.bday s.key)).push (s.sym.get 13)
      status := ended s.status, phase := .idle } := by
  rw [← codewordOf_eq]
  rfl

/-- R141: UNPACK as a whole next state. -/
theorem exec_unpack (s : State) :
    exec .unpack s = .next { s with
      rsv := payloadRsv (unpackSyms s.sym.pop), bday := payloadBday (unpackSyms s.sym.pop)
      key := payloadKey (unpackSyms s.sym.pop), status := ended s.status, phase := .idle } := by
  rw [← payloadPart_eq]
  rfl

/-- Settles O40. -/
theorem packSplitsThePayload : Obligations.PackSplitsThePayload := by
  unfold Obligations.PackSplitsThePayload
  refine ⟨decode_encode .pack, fun s => ⟨_, exec_pack s, push_get_last _ _, fun j => ?_⟩⟩
  rw [push_get_castSucc, packSyms_get_toNat, payload_toNat]

/-- Settles O41. -/
theorem unpackJoinsThePayload : Obligations.UnpackJoinsThePayload := by
  unfold Obligations.UnpackJoinsThePayload
  refine ⟨decode_encode .unpack, fun s => ⟨_, _, _, exec_unpack s, ?_⟩⟩
  rw [← payload_toNat, payload_fields, unpackSyms_pop_toNat]

/-- Settles O42: slices and join undo each other, and so do fields and payload. -/
theorem packAndUnpackAreInverse : Obligations.PackAndUnpackAreInverse := by
  unfold Obligations.PackAndUnpackAreInverse
  refine fun s => ⟨fun r b k => ⟨_, _, exec_pack s, exec_unpack _, ?_⟩,
    fun w => ⟨_, _, exec_unpack s, exec_pack _, fun j => ?_⟩⟩
  · simp only [Vector.pop_push, unpackSyms_packSyms, payloadRsv_payload, payloadBday_payload, payloadKey_payload,
      and_self]
  · simp only [push_get_castSucc, payload_fields, packSyms_unpackSyms, pop_get]

end Sys2Proof.Machine
end

section
/-! The repair of one position, from the evaluation as an affine function of the symbol there, and the checksum commands
GENCHK, VERIFY and REPAIR as whole next states: O37, O38 and O43 to O45 (R160 to R165). -/

namespace Sys2Proof.Machine

open Sys2Proof.Statements

/-! ### The one value that makes a codeword valid -/

theorem gfInv_gfMul {a : Sym11} (h : a ≠ 0) : gfMul (gfInv a) a = 1 := by
  rw [gfInv_eq_gfPow, ← gfPow_succ, gfPow_2047 h]

theorem gfPow_two_ne_zero (k : Nat) : gfPow 2 k ≠ 0 := by
  rw [gfPow_two, Ne, shiftBy_eq_zero_iff]
  decide

/-- R164's reason: the evaluation is affine in the symbol at position `p`. -/
theorem horner_set_affine (w : Codeword) (p : Fin 14) (v : Sym11) :
    horner (w.set p v) = shiftBy (13 - p.val) v ^^^ horner (w.set p 0) := by
  have hget : (w.set p 0).get p = 0 := Vector.getElem_set_self p.isLt
  have hset : (w.set p 0).set p v = w.set p v := Vector.set_set ..
  rw [← hset, horner_set, hget, zero_xor_sym11]

theorem repairValue_eq (w : Codeword) (p : Fin 14) :
    repairValue w p = gfMul (horner (w.set p 0)) (gfInv (gfPow 2 (13 - p.val))) := rfl

/-- The closed form's value contributes exactly what the other 13 symbols evaluate to. -/
theorem shiftBy_repairValue (w : Codeword) (p : Fin 14) :
    shiftBy (13 - p.val) (repairValue w p) = horner (w.set p 0) := by
  rw [repairValue_eq, ← gfMul_gfPow_two, gfMul_assoc, gfInv_gfMul (gfPow_two_ne_zero _), gfMul_one]

/-- R164. -/
theorem horner_set_eq_zero_iff (w : Codeword) (p : Fin 14) (v : Sym11) :
    horner (w.set p v) = 0 ↔ v = repairValue w p := by
  rw [horner_set_affine, xor_sym11_eq_zero_iff, ← shiftBy_repairValue, (shiftBy_injective _).eq_iff]

/-- Settles O37. -/
theorem repairedValueIsUniqueAndInClosedForm : Obligations.RepairedValueIsUniqueAndInClosedForm := by
  unfold Obligations.RepairedValueIsUniqueAndInClosedForm
  intro w p
  have hvalid : horner (w.set p (repairValue w p)) = 0 := (horner_set_eq_zero_iff w p _).2 rfl
  exact ⟨⟨_, hvalid, fun v => (horner_set_eq_zero_iff w p v).1⟩, hvalid⟩

/-! ### The search -/

theorem candidates_getElem? {k : Nat} (h : k < 2048) : candidates[k]? = some (BitVec.ofNat 11 k) := by
  rw [candidates, List.getElem?_map, List.getElem?_range h, Option.map_some]

/-- R163, R165: the search cannot run out of candidates, and what it finds is the one valid value. -/
theorem firstValid_eq (w : Codeword) (p : Fin 14) : firstValid w p = some (repairValue w p) := by
  cases h : firstValid w p with
  | none => exact absurd ((horner_set_eq_zero_iff w p _).2 rfl) (firstValid_none h _)
  | some v => rw [(horner_set_eq_zero_iff w p v).1 (firstValid_some h)]

/-- Settles O38. -/
theorem repairSearchFindsTheClosedForm : Obligations.RepairSearchFindsTheClosedForm := by
  unfold Obligations.RepairSearchFindsTheClosedForm
  exact fun w p => ⟨by simp [candidates], fun _ => candidates_getElem?, firstValid_eq w p⟩

/-! ### GENCHK and VERIFY -/

/-- R160: GENCHK as a whole next state. -/
theorem exec_genchk (s : State) :
    exec .genchk s = .next { s with
      sym := s.sym.set 13 (checksym s.sym.pop), status := ended s.status, phase := .idle } := by
  rw [← payloadPart_eq]
  rfl

/-- R161: VERIFY as a whole next state. -/
theorem exec_verify (s : State) :
    exec .verify s =
      .next { s with status := { ended s.status with valid := decide (horner s.sym = 0) }, phase := .idle } := rfl

theorem set_last_eq_push (w : Codeword) (v : Sym11) : w.set 13 v = w.pop.push v := by
  refine Vector.ext fun i hi => ?_
  rw [Vector.getElem_set, Vector.getElem_push]
  by_cases h : i < 13
  · rw [if_neg h.ne', dif_pos h, Vector.getElem_pop h]
  · rw [if_pos (by omega), dif_neg h]

/-- Settles O43: the check symbol ends the codeword that it makes valid. -/
theorem genchkStoresTheCheckSymbol : Obligations.GenchkStoresTheCheckSymbol := by
  unfold Obligations.GenchkStoresTheCheckSymbol
  refine ⟨decode_encode .genchk, fun s => ⟨_, exec_genchk s, ?_, _, exec_verify _, ?_⟩⟩
  · rw [checksym_pop_eq_checkSum]
  · have hvalid : horner (s.sym.set 13 (checksym s.sym.pop)) = 0 := by
      rw [set_last_eq_push]
      exact (horner_push_eq_zero_iff _ _).2 rfl
    exact decide_eq_true hvalid

/-- R190: FLAG as a whole next state. -/
theorem exec_flag (s : State) :
    exec .flag s = .next { s with
      sym := s.sym.set 1 (sub11 (s.sym.get 1) s.coin), status := ended s.status, phase := .idle } := rfl

theorem sub11_ne_self {b : Sym11} (h : b ≠ 0) (a : Sym11) : sub11 a b ≠ a := by
  simpa [sub11] using h

/-- Settles O44: a FLAG with COIN ≠ 0 is a change of one symbol, which a valid codeword does not survive. -/
theorem verifyTestsTheCodeword : Obligations.VerifyTestsTheCodeword := by
  unfold Obligations.VerifyTestsTheCodeword
  refine ⟨decode_encode .verify, fun s => ⟨exec_verify s, fun h p v hv => ⟨_, exec_verify _, ?_⟩,
    fun h hcoin => ⟨_, _, exec_flag s, exec_verify _, ?_⟩⟩⟩
  · exact decide_eq_false (horner_set_ne_zero h hv)
  · exact decide_eq_false (horner_set_ne_zero (p := 1) h (sub11_ne_self hcoin _))

/-! ### REPAIR -/

theorem eridxPos_eq_some {e : BitVec 4} {p : Fin 14} (h : e.toNat = p.val) : eridxPos e = some p := by
  have hlt : e.toNat < 14 := h ▸ p.isLt
  rw [eridxPos, dif_pos hlt]
  exact congrArg some (Fin.ext h)

theorem eridxPos_eq_none {e : BitVec 4} (h : 14 ≤ e.toNat) : eridxPos e = none := dif_neg h.not_gt

/-- R162, R165: REPAIR of a legal position as a whole next state. -/
theorem exec_repair_legal {s : State} {p : Fin 14} (h : s.eridx.toNat = p.val) :
    exec .repair s = .next { s with
      sym := s.sym.set p (repairValue s.sym p), repl := repairValue s.sym p
      status := { ended s.status with valid := true }, phase := .idle } := by
  calc exec .repair s = .next (complete (repairAt p s)) := execRepair_legal (eridxPos_eq_some h)
    _ = _ := by rw [repairAt_some (firstValid_eq s.sym p)]; rfl

/-- R162, R243: REPAIR with a reserved ERIDX records BAD_ERIDX, whose code is 3, and completes. -/
theorem exec_repair_reserved {s : State} (h : 14 ≤ s.eridx.toNat) :
    exec .repair s = .next { s with status := ended (recordError 3 s.status), phase := .idle } :=
  execRepair_illegal (eridxPos_eq_none h)

/-- Settles O45. -/
theorem repairFillsTheErasedPosition : Obligations.RepairFillsTheErasedPosition := by
  unfold Obligations.RepairFillsTheErasedPosition
  refine ⟨decode_encode .repair, fun s => ⟨fun p hp => ⟨repairValue s.sym p, ?_, fun v => ?_, exec_repair_legal hp⟩,
    exec_repair_reserved⟩⟩
  · exact (horner_set_eq_zero_iff s.sym p _).2 rfl
  · exact (horner_set_eq_zero_iff s.sym p v).1

end Sys2Proof.Machine
end

section
/-! The flag transform at one position, and FLAG, UNFLAG, DECODE and ENCODE as whole next states: O46 to O50, O53, O54
and O56 (R190 to R203, R205). -/

namespace Sys2Proof.Machine

open Sys2Proof.Statements

/-! ### The flag transform, position by position -/

/-- R191: what un-flagging makes of the symbol at position `p`. -/
def unflagAt (p : Fin 14) (v coin : Sym11) : Sym11 := if p = 1 then add11 v coin else v

theorem unflagAt_of_ne {p : Fin 14} (h : p ≠ 1) (v coin : Sym11) : unflagAt p v coin = v := if_neg h

theorem unflagAt_ne {p : Fin 14} {u v : Sym11} (h : u ≠ v) (coin : Sym11) : unflagAt p u coin ≠ unflagAt p v coin := by
  by_cases hp : p = 1
  · subst hp
    exact mt (BitVec.add_left_inj coin).1 h
  · rwa [unflagAt_of_ne hp, unflagAt_of_ne hp]

theorem flaggedValue_eq (v coin : Sym11) : flaggedValue v coin = sub11 v coin := by
  rw [flaggedValue, ← sub11_toNat, BitVec.ofNat_toNat, BitVec.setWidth_eq]

theorem unflagged_eq (w : Codeword) (coin : Sym11) : unflagged w coin = w.set 1 (add11 (w.get 1) coin) := by
  rw [unflagged, ← add11_toNat, BitVec.ofNat_toNat, BitVec.setWidth_eq]

/-- The model's transform is the statement's. -/
theorem unflagWord_eq (w : Codeword) (coin : Sym11) : unflagWord w coin = unflagged w coin :=
  (unflagged_eq w coin).symm

theorem set_get_self (w : Codeword) (p : Fin 14) : w.set p (w.get p) = w := Vector.set_getElem_self p.isLt

theorem unflagged_get (w : Codeword) (coin : Sym11) (p : Fin 14) :
    (unflagged w coin).get p = unflagAt p (w.get p) coin := by
  rw [unflagged_eq]
  by_cases hp : p = 1
  · subst hp
    exact Vector.getElem_set_self _
  · rw [unflagAt_of_ne hp]
    exact Vector.getElem_set_ne _ _ fun h => hp (Fin.ext h.symm)

/-- Un-flagging a text with one symbol replaced is un-flagging that symbol alone again. -/
theorem unflagged_set (w : Codeword) (coin : Sym11) (p : Fin 14) (v : Sym11) :
    unflagged (w.set p v) coin = (unflagged w coin).set p (unflagAt p v coin) := by
  refine Vector.ext fun i hi => ?_
  change (unflagged (w.set p v) coin).get ⟨i, hi⟩ = _
  rw [unflagged_get, Vector.get_eq_getElem, Vector.getElem_set, Vector.getElem_set]
  split
  case isTrue h =>
    obtain rfl : p = ⟨i, hi⟩ := Fin.ext h
    rfl
  case isFalse => exact (unflagged_get w coin ⟨i, hi⟩).symm

/-- R197: the replacement is flagged again at position 1 alone. -/
theorem replacement_eq (p : Fin 14) (v coin : Sym11) :
    replacement p v coin = if p = 1 then flaggedValue v coin else v := by
  rw [flaggedValue_eq]
  rfl

theorem replacement_unflagAt (p : Fin 14) (v coin : Sym11) : replacement p (unflagAt p v coin) coin = v := by
  by_cases hp : p = 1
  · subst hp
    exact BitVec.add_sub_cancel v coin
  · rw [replacement_eq, if_neg hp, unflagAt_of_ne hp]

/-! ### FLAG and UNFLAG -/

/-- R191: UNFLAG as a whole next state. -/
theorem exec_unflag (s : State) :
    exec .unflag s = .next { s with sym := unflagWord s.sym s.coin, status := ended s.status, phase := .idle } := rfl

/-- Settles O46: each transform undoes the other. -/
theorem flagAndUnflagShiftPositionOne : Obligations.FlagAndUnflagShiftPositionOne := by
  unfold Obligations.FlagAndUnflagShiftPositionOne
  refine ⟨decode_encode .flag, decode_encode .unflag, fun s => ⟨?_, ?_,
    ⟨_, _, exec_flag s, exec_unflag _, unflagWord_flagWord s.sym s.coin⟩,
    ⟨_, _, exec_unflag s, exec_flag _, flagWord_unflagWord s.sym s.coin⟩⟩⟩
  · rw [exec_flag, flaggedValue_eq]
  · rw [exec_unflag, unflagWord_eq]

/-! ### DECODE before the checksum stage -/

/-- R193, R194: an outcome before the checksum stage, as a whole next state. -/
theorem exec_decode_stop {s : State} {o : ParseOutcome} (h : decodeStage s = decodeStop o s) :
    exec .decode s = .next { s with
      status := { ended s.status with valid := false, usable := false, erasure := false, pstate := outcomeCode o }
      phase := .idle } := by
  change Host.Outcome.next (complete (decodeStage s)) = _
  rw [h]
  rfl

/-- R193. -/
theorem decodeStage_of_nwords_lt {s : State} (h : s.nwords.toNat < 14) : decodeStage s = decodeStop .notEnoughWords s :=
  if_pos h

/-- R193. -/
theorem decodeStage_of_nwords_gt {s : State} (h : s.nwords.toNat > 14) : decodeStage s = decodeStop .tooManyWords s := by
  rw [decodeStage, if_neg h.le.not_gt, if_pos h]

/-- Settles O47. -/
theorem decodeChecksTheWordCountFirst : Obligations.DecodeChecksTheWordCountFirst := by
  unfold Obligations.DecodeChecksTheWordCountFirst
  refine ⟨decode_encode .decode, fun s hn => ?_⟩
  split
  case isTrue hlt => exact exec_decode_stop (decodeStage_of_nwords_lt hlt)
  case isFalse hge =>
    have hne : s.nwords.toNat ≠ 14 := fun h => hn (BitVec.eq_of_toNat_eq h)
    exact exec_decode_stop (decodeStage_of_nwords_gt (by omega))

/-- With 14 words the erasures decide how DECODE goes on (R192). -/
theorem decodeStage_of_nwords_eq {s : State} (h : s.nwords = 14) :
    (2 ≤ (erasures s.ermask).length ∧ decodeStage s = decodeStop .tooManyUnrecognizedWords s) ∨
    (∃ p, erasures s.ermask = [p] ∧ decodeStage s = decodeErased p (unflagged s.sym s.coin) s) ∨
    (erasures s.ermask = [] ∧ decodeStage s = decodePlain (unflagged s.sym s.coin) s) := by
  have hn : s.nwords.toNat = 14 := congrArg BitVec.toNat h
  rw [← unflagWord_eq]
  obtain ⟨hlt, -⟩ | ⟨hgt, -⟩ | ⟨-, htwo⟩ | ⟨-, hone⟩ | ⟨-, hnone⟩ := decodeStage_cases s
  · omega
  · omega
  · exact .inl htwo
  · exact .inr (.inl hone)
  · exact .inr (.inr hnone)

/-- Settles O48: two different members do not fit into a list of at most one erasure. -/
theorem decodeStopsAtTwoErasures : Obligations.DecodeStopsAtTwoErasures := by
  unfold Obligations.DecodeStopsAtTwoErasures
  intro s p q hn hpq hp hq
  rw [← mem_erasures] at hp hq
  obtain ⟨-, hstop⟩ | ⟨r, hone, -⟩ | ⟨hnone, -⟩ := decodeStage_of_nwords_eq hn
  · exact exec_decode_stop hstop
  · rw [hone, List.mem_singleton] at hp hq
    exact absurd (hp.trans hq.symm) hpq
  · rw [hnone] at hp
    exact absurd hp List.not_mem_nil

/-! ### DECODE's checksum stage -/

/-- R199: the end of the checksum stage when the working codeword is valid. -/
theorem complete_decodeCommit_valid {w : Codeword} (h : horner w = 0) (o : ParseOutcome) (e : Bool) (s : State) :
    complete (decodeCommit o e w s) = { s with
      sym := w
      rsv := payloadRsv (unpackSyms w.pop), bday := payloadBday (unpackSyms w.pop), key := payloadKey (unpackSyms w.pop)
      status := { ended s.status with valid := true, usable := true, erasure := e, pstate := outcomeCode o }
      phase := .idle } := by
  have hok : isValid w = true := (isValid_iff w).2 h
  simp only [decodeCommit, hok, if_true, unpackInto, payloadPart_eq]
  rfl

/-- R199: the end of the checksum stage when it is not. -/
theorem complete_decodeCommit_invalid {w : Codeword} (h : horner w ≠ 0) (o : ParseOutcome) (e : Bool) (s : State) :
    complete (decodeCommit o e w s) = { s with
      sym := w
      status := { ended s.status with valid := false, usable := false, erasure := e, pstate := 6 }
      phase := .idle } := by
  have hok : isValid w = false := Bool.eq_false_iff.2 (mt (isValid_iff w).1 h)
  simp only [decodeCommit, hok]
  rfl

/-- R199: the unpacked fields are the payload that the symbols make. -/
theorem payloadNat_unpacked (w : Codeword) :
    payloadNat (payloadRsv (unpackSyms w.pop)) (payloadBday (unpackSyms w.pop)) (payloadKey (unpackSyms w.pop)) =
      symbolsNat w := by
  rw [← payload_toNat, payload_fields, unpackSyms_pop_toNat]

/-- R198: without an erasure the un-flagged codeword is evaluated as it is. -/
theorem exec_decode_plain {s : State} (hn : s.nwords = 14) (hm : s.ermask = 0) :
    exec .decode s = .next (complete (decodeCommit .specifiedValid false (unflagged s.sym s.coin) s)) := by
  have hnone : erasures s.ermask = [] := by rw [hm, erasures_zero]
  obtain ⟨htwo, -⟩ | ⟨p, hone, -⟩ | ⟨-, hplain⟩ := decodeStage_of_nwords_eq hn
  · simp [hnone] at htwo
  · simp [hnone] at hone
  · exact congrArg (fun t => Host.Outcome.next (complete t)) hplain

/-- Settles O49: the two ends of the checksum stage. -/
theorem decodeWithoutErasure : Obligations.DecodeWithoutErasure := by
  unfold Obligations.DecodeWithoutErasure
  refine fun s hn hm => ⟨fun h => ⟨_, _, _, payloadNat_unpacked (unflagged s.sym s.coin), ?_⟩, fun h => ?_⟩
  · rw [exec_decode_plain hn hm, complete_decodeCommit_valid h]
    rfl
  · rw [exec_decode_plain hn hm, complete_decodeCommit_invalid h]

/-- R196, R197: with one erasure, at `p`, the checksum stage ends with the un-flagged codeword repaired there. -/
theorem exec_decode_erased {s : State} {p : Fin 14} (hn : s.nwords = 14) (hm : s.ermask = 1#14 <<< p.val) :
    exec .decode s = .next (complete (decodeCommit .repaired true
      ((unflagged s.sym s.coin).set p (repairValue (unflagged s.sym s.coin) p))
      ((s.setEridx (BitVec.ofNat 4 p.val)).setRepl
        (replacement p (repairValue (unflagged s.sym s.coin) p) s.coin)))) := by
  have hsingle : erasures s.ermask = [p] := by rw [hm, erasures_single]
  obtain ⟨htwo, -⟩ | ⟨q, hone, herased⟩ | ⟨hnone, -⟩ := decodeStage_of_nwords_eq hn
  · simp [hsingle] at htwo
  · obtain rfl : p = q := List.singleton_injective (hsingle.symm.trans hone)
    rw [← decodeErased_some (firstValid_eq _ p), ← herased]
    rfl
  · simp [hsingle] at hnone

/-- Settles O50: the repaired codeword is valid, so the stage ends as it does for a valid one. -/
theorem decodeRepairsOneErasure : Obligations.DecodeRepairsOneErasure := by
  unfold Obligations.DecodeRepairsOneErasure
  intro s p hn hm
  have hvalid := (horner_set_eq_zero_iff (unflagged s.sym s.coin) p _).2 rfl
  refine ⟨_, _, _, _, _, rfl, hvalid, fun v => (horner_set_eq_zero_iff _ p v).1, payloadNat_unpacked _, ?_⟩
  rw [exec_decode_erased hn hm, complete_decodeCommit_valid hvalid, replacement_eq]
  rfl

/-- Settles O56: un-flagging keeps the substitution a change of one symbol, which a valid codeword does not survive. -/
theorem substitutionIsDetectedNotRepaired : Obligations.SubstitutionIsDetectedNotRepaired := by
  unfold Obligations.SubstitutionIsDetectedNotRepaired
  intro s p v hn hm hvalid hv
  have hwrong : horner (unflagged (s.sym.set p v) s.coin) ≠ 0 := by
    rw [unflagged_set]
    refine horner_set_ne_zero hvalid ?_
    rw [unflagged_get]
    exact unflagAt_ne hv s.coin
  refine ⟨_, exec_decode_plain hn hm, ?_⟩
  rw [complete_decodeCommit_invalid hwrong]
  exact ⟨rfl, rfl, rfl, rfl, rfl, rfl, rfl, rfl⟩

/-! ### ENCODE -/

/-- The codeword-domain symbols of the Seed fields: packed and checked, not yet flagged (R201). -/
def seedCodeword (s : State) : Codeword :=
  (packSyms (payload s.rsv s.bday s.key)).push (checksym (packSyms (payload s.rsv s.bday s.key)))

theorem unflagged_formatWord (s : State) : unflagged (formatWord s) s.coin = seedCodeword s := by
  rw [← unflagWord_eq, formatWord, unflagWord_flagWord, codewordOf_eq, seedCodeword]

theorem horner_seedCodeword (s : State) : horner (seedCodeword s) = 0 := (horner_push_eq_zero_iff _ _).2 rfl

theorem unpackSyms_seedCodeword (s : State) : unpackSyms (seedCodeword s).pop = payload s.rsv s.bday s.key := by
  rw [seedCodeword, Vector.pop_push, unpackSyms_packSyms]

/-- The check position is not flagged, so the text has the check symbol itself there. -/
theorem formatWord_get_last (s : State) : (formatWord s).get 13 = checkSum (seedCodeword s) := by
  calc (formatWord s).get 13 = (unflagged (formatWord s) s.coin).get 13 := by
        rw [unflagged_get, unflagAt_of_ne (by decide)]
    _ = checksym (seedCodeword s).pop := by rw [unflagged_formatWord, seedCodeword, push_get_last, Vector.pop_push]
    _ = checkSum (seedCodeword s) := checksym_pop_eq_checkSum _

/-- R201, R202: ENCODE as a whole next state; its self-check holds. -/
theorem exec_encode (s : State) :
    exec .encode s = .next { s with
      sym := formatWord s, status := { ended s.status with valid := true }, phase := .idle } :=
  execEncode_eq s

/-- Settles O53: un-flagged, ENCODE's symbols are `seedCodeword`. -/
theorem encodeFormatsTheSeed : Obligations.EncodeFormatsTheSeed := by
  unfold Obligations.EncodeFormatsTheSeed
  refine ⟨decode_encode .encode, fun s => ⟨formatWord s, exec_encode s, ?_⟩⟩
  rw [unflagged_formatWord]
  refine ⟨horner_seedCodeword s, fun j => ?_, formatWord_get_last s⟩
  rw [seedCodeword, push_get_castSucc, packSyms_get_toNat, payload_toNat]

/-! ### DECODE of ENCODE's symbols -/

/-- The value that repairs one position of a valid text is that position's own, whatever overwrote it. -/
theorem repairValue_unflagged_set {w : Codeword} {coin : Sym11} (h : horner (unflagged w coin) = 0) (p : Fin 14)
    (v : Sym11) : repairValue (unflagged (w.set p v) coin) p = unflagAt p (w.get p) coin := by
  refine ((horner_set_eq_zero_iff _ p _).1 ?_).symm
  rw [unflagged_set, Vector.set_set, ← unflagged_get, set_get_self, h]

theorem unflagged_set_repaired {w : Codeword} {coin : Sym11} (h : horner (unflagged w coin) = 0) (p : Fin 14)
    (v : Sym11) :
    (unflagged (w.set p v) coin).set p (repairValue (unflagged (w.set p v) coin) p) = unflagged w coin := by
  rw [repairValue_unflagged_set h, unflagged_set, Vector.set_set, ← unflagged_get, set_get_self]

/-- Settles O54: both parses end with `seedCodeword`, whose 13 payload symbols are the packed fields. -/
theorem encodeThenDecodeRestoresTheSeed : Obligations.EncodeThenDecodeRestoresTheSeed := by
  unfold Obligations.EncodeThenDecodeRestoresTheSeed
  intro s r b k
  have hword := unflagged_formatWord s
  have hvalid : horner (unflagged (formatWord s) s.coin) = 0 := by rw [hword, horner_seedCodeword]
  refine ⟨_, exec_encode s, ⟨_, exec_decode_plain rfl rfl, ?_⟩, fun p v => ⟨_, exec_decode_erased rfl rfl, ?_⟩⟩
  · rw [hword, complete_decodeCommit_valid (horner_seedCodeword s), unpackSyms_seedCodeword]
    exact ⟨rfl, rfl, payloadRsv_payload .., payloadBday_payload .., payloadKey_payload ..⟩
  · rw [unflagged_set_repaired hvalid, repairValue_unflagged_set hvalid, replacement_unflagAt, hword,
      complete_decodeCommit_valid (horner_seedCodeword s), unpackSyms_seedCodeword]
    exact ⟨rfl, rfl, rfl, payloadRsv_payload .., payloadBday_payload .., payloadKey_payload ..⟩

end Sys2Proof.Machine
end

section
/-! The control commands NOP and SRST as whole next states: O39 and O22. -/

namespace Sys2Proof.Machine

open Sys2Proof.Statements

/-- R230: NOP as a whole next state. -/
theorem exec_nop (s : State) : exec .nop s = .next { s with status := ended s.status, phase := .idle } := rfl

/-- Settles O39. -/
theorem nopChangesBusyAndDoneAlone : Obligations.NopChangesBusyAndDoneAlone := by
  unfold Obligations.NopChangesBusyAndDoneAlone
  exact ⟨decode_encode .nop, exec_nop⟩

/-- R231: SRST as a whole next state. The reset record has BUSY = 0 and PHASE = IDLE, so of its completion DONE is
left. -/
theorem exec_srst (s : State) :
    exec .srst s = .next { State.reset with
      status := { State.reset.status with done := true }
      resetLine := s.resetLine, moves := s.moves, replies := s.replies } := rfl

/-- R30: DONE is bit 1 of STATUS. -/
theorem statusWord_reset_done : statusWord { State.reset.status with done := true } = 0x00000002 := by decide

/-- R36: without IE there is no interrupt. -/
theorem irq_eq_false_of_ie {s : State} (h : s.ie = false) : irq s = false := by
  rw [irq, h, Bool.false_and]

/-- Settles O22: SRST leaves the reset record with DONE, whose IE is 0; while BUSY its word is a CMD write like any
other. -/
theorem softResetLeavesDoneAlone : Obligations.SoftResetLeavesDoneAlone := by
  unfold Obligations.SoftResetLeavesDoneAlone
  exact ⟨decode_encode .srst, fun s => ⟨⟨_, exec_srst s, rfl, statusWord_reset_done, irq_eq_false_of_ie rfl⟩,
    fun _ hp hr => serve_write_cmd_busy hr hp _⟩⟩

end Sys2Proof.Machine
end

section
/-! What the Host sees of errors and outcomes: the order in which DECODE reports them and ICLR's clear: O51 and O11
(R247, R250). -/

namespace Sys2Proof.Machine

open Sys2Proof.Statements

/-! ### The order of DECODE's outcomes -/

/-- The list of erasures is as long as ERMASK has ones (R26). -/
theorem length_erasures (m : BitVec 14) : (erasures m).length = erasureCount m := by
  rw [erasureCount, ← List.toFinset_finRange, ← List.toFinset_filter,
    List.toFinset_card_of_nodup ((List.nodup_finRange 14).filter _), erasures]

theorem erasures_injective {m n : BitVec 14} (h : erasures m = erasures n) : m = n := by
  refine BitVec.eq_of_getLsbD_eq fun i hi => Bool.eq_iff_iff.2 ?_
  rw [← mem_erasures m ⟨i, hi⟩, h, mem_erasures]

/-- The outcomes after which the Host may use the Seed fields (R31, R38). -/
def ParseOutcome.usable : ParseOutcome → Bool
  | .repaired | .specifiedValid => true
  | .notEnoughWords | .tooManyWords | .tooManyUnrecognizedWords | .checksumFailed => false

theorem ParseOutcome.usable_iff (o : ParseOutcome) : o.usable = true ↔ outcomeCode o = 4 ∨ outcomeCode o = 5 := by
  cases o <;> decide

theorem outcomeCode_eq_four_iff (o : ParseOutcome) : outcomeCode o = 4 ↔ o = .repaired := by
  cases o <;> decide

/-! `parseCode`, case by case (R247). -/

theorem parseCode_of_lt {n : Nat} (h : n < 14) (e : Nat) (valid : Bool) : parseCode n e valid = 1 := if_pos h

theorem parseCode_of_gt {n : Nat} (h : n > 14) (e : Nat) (valid : Bool) : parseCode n e valid = 2 := by
  rw [parseCode, if_neg h.le.not_gt, if_pos h]

theorem parseCode_of_two_le {e : Nat} (h : 2 ≤ e) (valid : Bool) : parseCode 14 e valid = 3 := if_pos h

theorem parseCode_one (valid : Bool) : parseCode 14 1 valid = 4 := rfl

theorem parseCode_zero (valid : Bool) : parseCode 14 0 valid = if valid then 5 else 6 := rfl

/-- R192, R247: STATUS after DECODE is that of one outcome, whose code the word count, the erasures and the validity
decide in that order. With one erasure the validity has no say: the repaired codeword is valid. -/
theorem exec_decode_status (s : State) :
    ∃ o t, exec .decode s = .next t ∧
      t.status = ended (outcomeRecord o o.usable (decide (o = .repaired)) s.status) ∧
      outcomeCode o =
        parseCode s.nwords.toNat (erasureCount s.ermask) (decide (horner (unflagged s.sym s.coin) = 0)) := by
  rw [← length_erasures]
  obtain ⟨hlt, hstop⟩ | ⟨hgt, hstop⟩ | ⟨hn, htwo, hstop⟩ | ⟨hn, ⟨p, hone, -⟩⟩ | ⟨hn, hnone, -⟩ := decodeStage_cases s
  · exact ⟨.notEnoughWords, _, exec_decode_stop hstop, rfl, (parseCode_of_lt hlt _ _).symm⟩
  · exact ⟨.tooManyWords, _, exec_decode_stop hstop, rfl, (parseCode_of_gt hgt _ _).symm⟩
  · rw [hn]
    exact ⟨.tooManyUnrecognizedWords, _, exec_decode_stop hstop, rfl, (parseCode_of_two_le htwo _).symm⟩
  · have hm : s.ermask = 1#14 <<< p.val := erasures_injective (hone.trans (erasures_single p).symm)
    have hvalid := (horner_set_eq_zero_iff (unflagged s.sym s.coin) p _).2 rfl
    rw [exec_decode_erased (BitVec.eq_of_toNat_eq hn) hm, complete_decodeCommit_valid hvalid, hn, hone]
    exact ⟨.repaired, _, rfl, rfl, (parseCode_one _).symm⟩
  · have hm : s.ermask = 0 := erasures_injective (hnone.trans erasures_zero.symm)
    rw [exec_decode_plain (BitVec.eq_of_toNat_eq hn) hm, hn, hnone, List.length_nil, parseCode_zero]
    by_cases h : horner (unflagged s.sym s.coin) = 0
    · rw [complete_decodeCommit_valid h, decide_eq_true h]
      exact ⟨.specifiedValid, _, rfl, rfl, rfl⟩
    · rw [complete_decodeCommit_invalid h, decide_eq_false h]
      exact ⟨.checksumFailed, _, rfl, rfl, rfl⟩

/-- Settles O51: the four fields are those of the outcome that `exec_decode_status` names. -/
theorem decodeReportsTheFirstOutcomeThatApplies : Obligations.DecodeReportsTheFirstOutcomeThatApplies := by
  unfold Obligations.DecodeReportsTheFirstOutcomeThatApplies
  intro s
  obtain ⟨o, t, hexec, hstatus, hcode⟩ := exec_decode_status s
  refine ⟨t, hexec, ?_⟩
  rw [hstatus]
  exact ⟨hcode, o.usable_iff, rfl, decide_eq_true_iff.trans (outcomeCode_eq_four_iff o).symm⟩

/-! ### The write to ICLR -/

/-- R250: the cleared record, field by field. -/
theorem clearRecord_eq (v : Word) (t : Status) :
    clearRecord v t = { t with
      done     := t.done && !v.getLsbD 0
      err      := t.err && !v.getLsbD 1
      errcode  := if v.getLsbD 1 = true then 0 else t.errcode
      errmulti := t.errmulti && !v.getLsbD 1 } := by
  unfold clearRecord
  cases v.getLsbD 0 <;> cases v.getLsbD 1 <;> simp

/-- R250: "Writing 0 has no effect." -/
theorem writeIclr_zero (s : State) : writeIclr 0 s = s := rfl

/-- Settles O11: a write to ICLR is `writeIclr` in both phases, and a busy state of the invariant has DONE = 0 before
it already. -/
theorem iclrClearsWhatItsBitsSay : Obligations.IclrClearsWhatItsBitsSay := by
  unfold Obligations.IclrClearsWhatItsBitsSay
  intro s v hr
  have hwrite : serve (.write 0x010 32 v) s = writeIclr v s := serve_write_iclr hr v
  rw [hwrite]
  refine ⟨congrArg s.setStatus (clearRecord_eq v s.status), fun hv => ?_, fun hinv hbusy => ?_,
    serve_read_reg hr .iclr⟩
  · rw [hv, writeIclr_zero]
  · rw [writeIclr_status, clearRecord_done, hinv.busy_not_done hbusy, Bool.and_false]

end Sys2Proof.Machine
end

section
/-! Aligned writes while a command is in progress, and accesses while the reset input is asserted: O10 and O23 (R280,
R287). -/

namespace Sys2Proof.Machine

open Sys2Proof.Statements

/-! ### Writes while a command is in progress -/

/-- R61: the read-only registers. -/
theorem regAccess_eq_readOnly_iff (r : Reg) : regAccess r = .readOnly ↔ r ∈ [Reg.id, Reg.status, Reg.repl] := by
  cases r <;> simp [regAccess]

theorem serve_write_readOnly {s : State} (hr : s.resetLine = false) {r : Reg} (h : regAccess r = .readOnly)
    (v : Word) : serve (.write (regOffset r) 32 v) s = s := by
  rw [serve_write hr, regWrite_readOnly h]

theorem serve_write_reserved {s : State} (hr : s.resetLine = false) {off : Offset} (ha : off.toNat % 4 = 0)
    (h : 0x078 ≤ off.toNat) (v : Word) : serve (.write off 32 v) s = s := by
  rw [serve_write hr, regWrite_reserved ((regAt_eq_none_iff ha).2 h) (supported_of_aligned ha)]

/-- R287: BUSY_WRITE, whose code is 2, at every register that is neither read-only nor ICLR. -/
theorem serve_write_busy {s : State} {op : BitVec 4} (hr : s.resetLine = false) (hp : s.phase = .busy op) {r : Reg}
    (hacc : regAccess r ≠ .readOnly) (hi : r ≠ .iclr) (v : Word) :
    serve (.write (regOffset r) 32 v) s = { s with status := recordError 2 s.status } := by
  rw [serve_write hr, regWrite_busy hacc hi hp, accessError_eq]; rfl

/-- Settles O10: only the last kind of write depends on PHASE. -/
theorem writesWhileBusyAreDropped : Obligations.WritesWhileBusyAreDropped := by
  unfold Obligations.WritesWhileBusyAreDropped
  intro s op v hp hr
  refine ⟨serve_write_iclr hr v, fun r hmem => ?_, fun off ha hoff => serve_write_reserved hr ha hoff v,
    fun r hmem => ?_, serve_read_reg hr⟩
  · exact serve_write_readOnly hr ((regAccess_eq_readOnly_iff r).2 hmem) v
  · obtain ⟨hiclr, hreadOnly⟩ := List.ne_and_not_mem_of_not_mem_cons hmem
    exact serve_write_busy hr hp (mt (regAccess_eq_readOnly_iff r).1 hreadOnly) hiclr v

/-! ### The reset input -/

/-- R280: while the reset input is asserted, the accesses of the Host leave nothing but a reply of 0 to each read. -/
theorem serveAll_in_reset (as : List Access) {s : State} (h : s.resetLine = true) :
    serveAll as s = { s with replies := List.replicate (readCount as) 0 ++ s.replies } := by
  induction as generalizing s with
  | nil => rfl
  | cons a as ih =>
    rw [serveAll, List.foldl_cons, ← serveAll]
    cases a with
    | read off bits =>
      rw [serve_read_in_reset h, ih (s := s.pushReply 0) h]
      simp [readCount, List.replicate_succ', State.pushReply]
    | write off bits v =>
      rw [serve_write_in_reset h, ih h]
      simp [readCount]

@[simp] theorem regValue_setResetLine (s : State) (b : Bool) (r : Reg) :
    regValue (s.setResetLine b) r = regValue s r := by
  cases r <;> rfl

/-- No register shows what the reads returned. -/
theorem regValue_setReplies (s : State) (q : List Word) (r : Reg) :
    regValue { s with replies := q } r = regValue s r := by
  cases r <;> rfl

/-- Settles O23: the accesses add replies to the state that the asserted input leaves, and no register shows those; the
release changes the input alone. -/
theorem hardwareResetAbandonsAndIgnores : Obligations.HardwareResetAbandonsAndIgnores := by
  unfold Obligations.HardwareResetAbandonsAndIgnores
  intro s as
  refine ⟨_, serveAll_in_reset as (s := driveReset true s) rfl, fun r => ?_, rfl, rfl, rfl, rfl⟩
  rw [regValue_setReplies, driveReset, if_pos rfl, regValue_setResetLine, regValue_resetRegisters]

end Sys2Proof.Machine
end

section
/-! One step by the move that comes first, and runs as steps in a row: O24 and O28 (R70, R251, R280, R290, R291). -/

open Sys2Proof.Statements

namespace Sys2Proof.Machine

/-! ### The Engine's turn -/

theorem engineWork_idle {s : State} (hp : s.phase = .idle) : engineWork s = .wait := by
  simp only [engineWork, hp, ite_self]

theorem engineWork_busy {s : State} {i : Instr} (hr : s.resetLine = false) (hp : s.phase = .busy i.opcode) :
    engineWork s = .command i := by
  have hlatch : decode (i.opcode.setWidth 32) = .ok i := (decode_latch i.opcode i).2 rfl
  simp [engineWork, hr, hp, hlatch]

/-! ### One step, by the move that comes first -/

theorem fetch_nil {s : State} (h : s.moves = []) : fetch s = (engineWork s, s) := by
  simp only [fetch, h]

theorem fetch_engine {s : State} {rest : List Move} (h : s.moves = .engine :: rest) :
    fetch s = (engineWork s, s.setMoves rest) := by
  simp only [fetch, h]

theorem fetch_access {s : State} {a : Access} {rest : List Move} (h : s.moves = .access a :: rest) :
    fetch s = (.access a, s.setMoves rest) := by
  simp only [fetch, h]

theorem fetch_reset {s : State} {b : Bool} {rest : List Move} (h : s.moves = .reset b :: rest) :
    fetch s = (.reset b, s.setMoves rest) := by
  simp only [fetch, h]

theorem step_access {s : State} {a : Access} {rest : List Move} (h : s.moves = .access a :: rest) :
    step s = .next (serve a (s.setMoves rest)) := by
  simp only [step, fetch_access h]

theorem step_reset {s : State} {b : Bool} {rest : List Move} (h : s.moves = .reset b :: rest) :
    step s = .next (driveReset b (s.setMoves rest)) := by
  simp only [step, fetch_reset h]

/-- R281: IDLE with nothing to come waits. -/
theorem step_idle_nil {s : State} (hp : s.phase = .idle) (h : s.moves = []) : step s = .next s := by
  simp only [step, fetch_nil h, engineWork_idle hp]

theorem step_busy_nil {s : State} {i : Instr} (hr : s.resetLine = false) (hp : s.phase = .busy i.opcode)
    (h : s.moves = []) : step s = exec i s := by
  simp only [step, fetch_nil h, engineWork_busy hr hp]

theorem step_busy_engine {s : State} {i : Instr} {rest : List Move} (hr : s.resetLine = false)
    (hp : s.phase = .busy i.opcode) (h : s.moves = .engine :: rest) : step s = exec i (s.setMoves rest) := by
  simp only [step, fetch_engine h, engineWork_busy hr hp]

/-- `withFetchWord` latches a command as its issue does, with the Engine's turn next (notes/assumptions/8.md). -/
theorem withFetchWord_encode (s : State) (i : Instr) :
    s.withFetchWord 32 (encode i).toNat =
      (issueLegal i.opcode (s.setResetLine false)).setMoves (engineFirst s.moves) := by
  have hword : BitVec.ofNat 32 ((encode i).toNat % 2 ^ 32) = encode i := by
    rw [Nat.mod_eq_of_lt (encode i).isLt, BitVec.ofNat_toNat, BitVec.setWidth_eq]
  simp only [State.withFetchWord, latchWord, hword, decode_encode]

/-- The turn that `engineFirst` gives is taken by the next step, and the moves are then those that were to come. -/
theorem step_engineFirst {s : State} {i : Instr} {ms : List Move} (hr : s.resetLine = false)
    (hp : s.phase = .busy i.opcode) : step (s.setMoves (engineFirst ms)) = exec i (s.setMoves ms) := by
  cases ms with
  | nil => exact step_busy_nil (s := s.setMoves []) hr hp rfl
  | cons m ms => exact step_busy_engine (s := s.setMoves (.engine :: m :: ms)) hr hp rfl

/-- Settles O24: each clause is the step by the move that comes first. -/
theorem stepRunsTheCommandInProgress : Obligations.StepRunsTheCommandInProgress := by
  unfold Obligations.StepRunsTheCommandInProgress
  refine fun s i => ⟨fun hr hp => ⟨step_busy_nil hr hp, fun rest => step_busy_engine hr hp⟩,
    fun a rest => step_access, fun b rest => step_reset, step_idle_nil, ?_⟩
  rw [withFetchWord_encode, step_engineFirst rfl rfl]
  rfl

/-! ### Runs -/

section
variable {M : Host.Core} {s t : M.State}

theorem coreRun_succ (h : M.step s = .next t) (k : Nat) : M.run (k + 1) s = M.run k t := by
  rw [Host.Core.run, h]

/-- A run of `m + n` steps goes on where the first `m` steps end. -/
theorem coreRun_add {m : Nat} (h : M.run m s = .next t) (n : Nat) : M.run (m + n) s = M.run n t := by
  induction m generalizing s with
  | zero =>
    obtain rfl : s = t := Host.Outcome.next.inj h
    rw [Nat.zero_add]
  | succ m ih =>
    cases hs : M.step s with
    | next s' =>
      rw [coreRun_succ hs] at h
      rw [Nat.succ_add, coreRun_succ hs, ih h]
    | fault r => rw [Host.Core.run, hs] at h; cases h
    | refused r => rw [Host.Core.run, hs] at h; cases h

end

theorem run_succ {s t : State} (h : step s = .next t) (k : Nat) :
    Host.Core.run core (k + 1) s = Host.Core.run core k t := coreRun_succ (M := core) h k

theorem run_one {s t : State} (h : step s = .next t) : Host.Core.run core 1 s = .next t := run_succ h 0

theorem run_add {s t : State} {m : Nat} (h : Host.Core.run core m s = .next t) (n : Nat) :
    Host.Core.run core (m + n) s = Host.Core.run core n t := coreRun_add (M := core) h n

/-! ### A command in progress completes -/

theorem OnlyHostView.frame {s s' : State} (h : OnlyHostView s s') :
    s'.resetLine = s.resetLine ∧ s'.moves = s.moves := by
  obtain ⟨t, q, rfl, -⟩ := h
  exact ⟨rfl, rfl⟩

/-- Every command ends IDLE with BUSY = 0 and DONE = 1 (R251). -/
theorem exec_ends (i : Instr) (s : State) :
    ∃ t, exec i s = .next t ∧ t.phase = .idle ∧ t.status.busy = false ∧ t.status.done = true := by
  obtain ⟨u, hu, -⟩ := exec_completes i s
  exact ⟨complete u, hu, rfl, rfl, rfl⟩

/-- The step of the Engine's turn is the last of a command in progress. -/
theorem completes_in_one_step {s s' : State} {i : Instr} (hp : s.phase = .busy i.opcode) (h : step s = exec i s') :
    ∃ t, Host.Core.run core 1 s = .next t ∧ t.phase = .idle ∧ t.status.busy = false ∧ t.status.done = true ∧
      ∀ j, j < 1 → ∃ u, Host.Core.run core j s = .next u ∧ u.phase = .busy i.opcode := by
  obtain ⟨t, ht, hidle, hbusy, hdone⟩ := exec_ends i s'
  refine ⟨t, run_one (h.trans ht), hidle, hbusy, hdone, fun j hj => ?_⟩
  obtain rfl : j = 0 := by omega
  exact ⟨s, rfl, hp⟩

/-- Settles O28, by induction on the moves to come: an access keeps the command in progress, the Engine's turn ends
it. -/
theorem busyCommandCompletes : Obligations.BusyCommandCompletes := by
  unfold Obligations.BusyCommandCompletes
  intro s i hr hp hmoves
  generalize hms : s.moves = ms at hmoves ⊢
  induction ms generalizing s with
  | nil =>
    obtain ⟨t, ht⟩ := completes_in_one_step hp (step_busy_nil hr hp hms)
    exact ⟨1, t, by omega, by omega, ht⟩
  | cons m ms ih =>
    cases m with
    | engine =>
      obtain ⟨t, ht⟩ := completes_in_one_step hp (step_busy_engine hr hp hms)
      exact ⟨1, t, by omega, by omega, ht⟩
    | reset b => exact absurd List.mem_cons_self (hmoves b)
    | access a =>
      have hview : OnlyHostView (s.setMoves ms) (serve a (s.setMoves ms)) := serve_busy (s := s.setMoves ms) hp a
      obtain ⟨hreset, hrest⟩ := hview.frame
      obtain ⟨k, t, -, hle, hrun, hidle, hbusy, hdone, hbefore⟩ :=
        ih _ (hreset.trans hr) (hview.phase.trans hp) hrest fun b hb => hmoves b (List.mem_cons_of_mem _ hb)
      have hstep := step_access hms
      refine ⟨k + 1, t, by omega, by simpa using hle, by rw [run_succ hstep, hrun], hidle, hbusy, hdone,
        fun j hj => ?_⟩
      cases j with
      | zero => exact ⟨s, rfl, hp⟩
      | succ j =>
        rw [run_succ hstep]
        exact hbefore j (by omega)

end Sys2Proof.Machine
end

section
/-! The invariant of reached states: it holds at reset, every step keeps it, and so no run stops: O25, O26 and O27
(R30, R31, R34, R241, R250, R251, R280, R295). -/

open Sys2Proof.Statements

namespace Sys2Proof.Machine

/-! ### The invariant of STATUS -/

/-- The clauses of `State.Inv` about the error record and the outcome of a parse. -/
structure RecordInv (t : Status) : Prop where
  no_error : t.err = false → t.errcode = 0 ∧ t.errmulti = false
  error_code : t.err = true → 1 ≤ t.errcode.toNat ∧ t.errcode.toNat ≤ 5
  pstate_defined : t.pstate ≠ 7
  usable_iff : t.usable = true ↔ t.pstate = 4 ∨ t.pstate = 5
  erasure_iff : t.erasure = true ↔ t.pstate = 4

theorem State.Inv.record {s : State} (h : s.Inv) : RecordInv s.status :=
  ⟨h.no_error, h.error_code, h.pstate_defined, h.usable_iff, h.erasure_iff⟩

theorem recordInv_reset : RecordInv Status.reset where
  no_error := by decide
  error_code := by decide
  pstate_defined := by decide
  usable_iff := by decide
  erasure_iff := by decide

/-- BUSY, DONE and VALID have no part in it. -/
theorem RecordInv.setFlags {t : Status} (h : RecordInv t) (busy done valid : Bool) :
    RecordInv { t with busy := busy, done := done, valid := valid } :=
  ⟨h.no_error, h.error_code, h.pstate_defined, h.usable_iff, h.erasure_iff⟩

theorem errCode_range (e : ErrCode) : 1 ≤ (errCode e).toNat ∧ (errCode e).toNat ≤ 5 := by
  cases e <;> decide

theorem RecordInv.raise {t : Status} (h : RecordInv t) (e : ErrCode) : RecordInv (raiseRecord e t) := by
  rw [raiseRecord]
  split
  case isTrue herr =>
    exact ⟨fun hno => Bool.noConfusion (herr.symm.trans hno), h.error_code, h.pstate_defined, h.usable_iff,
      h.erasure_iff⟩
  case isFalse =>
    exact ⟨Bool.noConfusion, fun _ => errCode_range e, h.pstate_defined, h.usable_iff, h.erasure_iff⟩

theorem RecordInv.clear {t : Status} (h : RecordInv t) (v : Word) : RecordInv (clearRecord v t) := by
  rw [clearRecord_eq]
  cases hv : v.getLsbD 1 with
  | false => simpa using h.setFlags t.busy (t.done && !v.getLsbD 0) t.valid
  | true => exact ⟨by simp, by simp, h.pstate_defined, h.usable_iff, h.erasure_iff⟩

theorem outcomeCode_ne_seven (o : ParseOutcome) : outcomeCode o ≠ 7 := by
  cases o <;> decide

/-- R31, R192: an outcome with the USABLE and ERASURE that belong to it. -/
theorem RecordInv.outcome {t : Status} (h : RecordInv t) (o : ParseOutcome) :
    RecordInv (outcomeRecord o o.usable (decide (o = .repaired)) t) where
  no_error := h.no_error
  error_code := h.error_code
  pstate_defined := outcomeCode_ne_seven o
  usable_iff := o.usable_iff
  erasure_iff := decide_eq_true_iff.trans (outcomeCode_eq_four_iff o).symm

/-! ### The invariant by PHASE -/

theorem inv_of_idle {s : State} (hr : s.resetLine = false) (hp : s.phase = .idle) (hb : s.status.busy = false)
    (h : RecordInv s.status) : s.Inv where
  busy_iff := by simp [hp, hb]
  busy_not_done := by simp [hb]
  op_legal := by simp [hp]
  no_error := h.no_error
  error_code := h.error_code
  pstate_defined := h.pstate_defined
  usable_iff := h.usable_iff
  erasure_iff := h.erasure_iff
  held_in_reset := by simp [hr]

/-- An access that keeps PHASE, BUSY and a DONE of 0 keeps the invariant if it keeps that of STATUS. -/
theorem State.Inv.of_same_phase {s t : State} (h : s.Inv) (hr : t.resetLine = false) (hp : t.phase = s.phase)
    (hb : t.status.busy = s.status.busy) (hd : t.status.done = true → s.status.done = true)
    (hrec : RecordInv t.status) : t.Inv where
  busy_iff := by rw [hp, hb]; exact h.busy_iff
  busy_not_done := by
    intro hbusy
    rw [hb] at hbusy
    exact Bool.eq_false_iff.2 fun ht => Bool.eq_false_iff.1 (h.busy_not_done hbusy) (hd ht)
  op_legal := by rw [hp]; exact h.op_legal
  no_error := hrec.no_error
  error_code := hrec.error_code
  pstate_defined := hrec.pstate_defined
  usable_iff := hrec.usable_iff
  erasure_iff := hrec.erasure_iff
  held_in_reset := by simp [hr]

/-- No clause speaks of the moves to come or the replies. -/
theorem State.Inv.setInterface {s : State} (h : s.Inv) (ms : List Move) (q : List Word) :
    { s with moves := ms, replies := q }.Inv :=
  { h with
    held_in_reset := fun hr =>
      congrArg (fun t : State => { t with moves := ms, replies := q }) (h.held_in_reset hr) }

/-- Settles O25. -/
theorem invariantHoldsAtReset : Obligations.InvariantHoldsAtReset := by
  unfold Obligations.InvariantHoldsAtReset
  exact inv_of_idle rfl rfl rfl recordInv_reset

/-! ### Accesses and the reset input -/

theorem inv_issueLegal {s : State} (h : s.Inv) (hr : s.resetLine = false) (i : Instr) :
    (issueLegal i.opcode s).Inv where
  busy_iff := ⟨fun _ => Phase.noConfusion, fun _ => rfl⟩
  busy_not_done := fun _ => rfl
  op_legal := fun op hop => Phase.busy.inj hop ▸ opcode_lt i
  no_error := h.no_error
  error_code := h.error_code
  pstate_defined := h.pstate_defined
  usable_iff := h.usable_iff
  erasure_iff := h.erasure_iff
  held_in_reset := by simp [hr]

theorem inv_issueIllegal {s : State} (h : s.Inv) (hr : s.resetLine = false) (hp : s.phase = .idle) :
    (issueIllegal s).Inv := by
  have hidle : s.status.busy = false := Bool.eq_false_iff.2 fun hb => h.busy_iff.1 hb hp
  have hraised := (h.record.setFlags s.status.busy false s.status.valid).raise .illegalCmd
  obtain ⟨hfin, -⟩ := issueIllegal_finished hp hr hidle
  exact inv_of_idle hfin.released hfin.idle hfin.notBusy (hraised.setFlags _ true _)

theorem inv_issue {s : State} (h : s.Inv) (hr : s.resetLine = false) (hp : s.phase = .idle) (w : Word) :
    (issue w s).Inv := by
  cases hw : decode w with
  | ok i => rw [issue_ok hw]; exact inv_issueLegal h hr i
  | error e => rw [issue_error hw]; exact inv_issueIllegal h hr hp

theorem inv_accessError {s : State} (h : s.Inv) (hr : s.resetLine = false) (e : ErrCode) : (accessError e s).Inv :=
  h.of_same_phase hr rfl (raiseRecord_busy e s.status) (fun hd => by rwa [accessError_status, raiseRecord_done] at hd)
    (h.record.raise e)

@[simp] theorem clearRecord_busy (v : Word) (t : Status) : (clearRecord v t).busy = t.busy := by
  rw [clearRecord_eq]

theorem inv_writeIclr {s : State} (h : s.Inv) (hr : s.resetLine = false) (v : Word) : (writeIclr v s).Inv := by
  refine h.of_same_phase hr rfl (clearRecord_busy v s.status) (fun hd => ?_) (h.record.clear v)
  rw [writeIclr_status, clearRecord_done, Bool.and_eq_true] at hd
  exact hd.2

theorem inv_regStore {s : State} (h : s.Inv) (hr : s.resetLine = false) (v : Word) (r : Reg) :
    (regStore s v r).Inv := by
  obtain ⟨hstatus, hphase, hreset, -⟩ := regStore_frame s v r
  exact h.of_same_phase (hreset.trans hr) hphase (by rw [hstatus]) (by rw [hstatus]; exact id)
    (by rw [hstatus]; exact h.record)

theorem inv_serve {s : State} (h : s.Inv) (a : Access) : (serve a s).Inv := by
  cases hr : s.resetLine with
  | true =>
    cases a with
    | read off bits => rw [serve_read_in_reset hr]; exact h.setInterface s.moves (0 :: s.replies)
    | write off bits v => rw [serve_write_in_reset hr]; exact h
  | false =>
    cases a with
    | read off bits =>
      rw [serve_read hr]
      refine State.Inv.setInterface ?_ (regRead off bits s).2.moves _
      obtain hread | hread := regRead_cases off bits s <;> rw [hread]
      · exact h
      · exact inv_accessError h hr .badAccess
    | write off bits v =>
      rw [serve_write hr]
      obtain hw | hw | hw | ⟨-, hw⟩ | ⟨hp, hw⟩ | ⟨-, r, -, hw⟩ := regWrite_cases off bits v s <;> rw [hw]
      · exact h
      · exact inv_accessError h hr .badAccess
      · exact inv_writeIclr h hr v
      · exact inv_accessError h hr .busyWrite
      · exact inv_issue h hr hp v
      · exact inv_regStore h hr v r

/-- R280: the asserted input leaves the reset values, which the invariant allows; the release only lifts a clause. -/
theorem inv_driveReset {s : State} (h : s.Inv) (b : Bool) : (driveReset b s).Inv := by
  cases b with
  | true =>
    exact { inv_of_idle (s := resetRegisters (s.setResetLine false)) rfl rfl rfl recordInv_reset with
      held_in_reset := fun _ => rfl }
  | false => exact { h with held_in_reset := fun hr => absurd hr Bool.false_ne_true }

/-! ### Commands -/

/-- What a command leaves in STATUS meets the invariant of STATUS: only REPAIR, DECODE and SRST write more of it than
BUSY, DONE and VALID. -/
theorem exec_record {i : Instr} {s t : State} (h : RecordInv s.status) (hexec : exec i s = .next t) :
    RecordInv t.status := by
  have ends (valid : Bool) : RecordInv { ended s.status with valid := valid } := h.setFlags false true valid
  have same : RecordInv (ended s.status) := ends s.status.valid
  cases i with
  | nop | pack | unpack | genchk | flag | unflag =>
    obtain rfl := Host.Outcome.next.inj hexec
    exact same
  | verify =>
    obtain rfl := Host.Outcome.next.inj hexec
    exact ends _
  | encode =>
    obtain rfl := Host.Outcome.next.inj ((exec_encode s).symm.trans hexec)
    exact ends _
  | srst =>
    obtain rfl := Host.Outcome.next.inj hexec
    exact recordInv_reset.setFlags _ _ _
  | repair =>
    by_cases hidx : s.eridx.toNat < 14
    · obtain rfl := Host.Outcome.next.inj ((exec_repair_legal (p := ⟨s.eridx.toNat, hidx⟩) rfl).symm.trans hexec)
      exact ends _
    · obtain rfl := Host.Outcome.next.inj ((exec_repair_reserved (not_lt.1 hidx)).symm.trans hexec)
      exact (h.raise .badEridx).setFlags _ _ _
  | decode =>
    obtain ⟨o, u, hu, hstatus, -⟩ := exec_decode_status s
    obtain rfl : u = t := Host.Outcome.next.inj (hu.symm.trans hexec)
    rw [hstatus]
    exact (h.outcome o).setFlags _ _ _

theorem inv_exec {i : Instr} {s t : State} (h : s.Inv) (hr : s.resetLine = false) (hexec : exec i s = .next t) :
    t.Inv := by
  obtain ⟨u, hu, hfin⟩ := exec_finishes i hr
  obtain rfl : u = t := Host.Outcome.next.inj (hu.symm.trans hexec)
  exact inv_of_idle hfin.released hfin.idle hfin.notBusy (exec_record h.record hexec)

/-! ### Steps and runs -/

/-- Settles O26, by what a step can do. -/
theorem stepKeepsTheInvariant : Obligations.StepKeepsTheInvariant := by
  unfold Obligations.StepKeepsTheInvariant
  intro s t h hstep
  obtain ⟨ms, hfetch⟩ := fetch_state s
  have hmoves : (s.setMoves ms).Inv := h.setInterface ms s.replies
  have hcases := step_cases hstep
  rw [hfetch] at hcases
  obtain rfl | ⟨i, hr, -, hexec⟩ | ⟨a, rfl⟩ | ⟨b, rfl⟩ := hcases
  · exact hmoves
  · exact inv_exec hmoves hr hexec
  · exact inv_serve hmoves a
  · exact inv_driveReset hmoves b

/-- The opcode map knows the legal opcodes (R92). -/
theorem exists_opcode_of_lt {op : BitVec 4} (h : op.toNat < 11) : ∃ i : Instr, op = i.opcode := by
  obtain ⟨i, hi⟩ := Option.isSome_iff_exists.1 ((opcodeInstr_isSome_iff op).2 h)
  exact ⟨i, (opcodeInstr_eq_some_iff op i).1 hi⟩

/-- The Engine finds its turn empty or a command, and no reserved opcode. -/
theorem State.Inv.engineWork_cases {s : State} (h : s.Inv) : engineWork s = .wait ∨ ∃ i, engineWork s = .command i := by
  cases hr : s.resetLine with
  | true => exact .inl (by rw [engineWork, hr, if_pos rfl])
  | false =>
    cases hp : s.phase with
    | idle => exact .inl (engineWork_idle hp)
    | busy op =>
      obtain ⟨i, rfl⟩ := exists_opcode_of_lt (h.op_legal op hp)
      exact .inr ⟨i, engineWork_busy hr hp⟩

theorem State.Inv.step_next {s : State} (h : s.Inv) : ∃ t, step s = .next t := by
  have engine (s' : State) (hf : fetch s = (engineWork s, s')) : ∃ t, step s = .next t := by
    obtain hwait | ⟨i, hcmd⟩ := h.engineWork_cases
    · exact ⟨s', by simp only [step, hf, hwait]⟩
    · obtain ⟨t, ht, -⟩ := exec_ends i s'
      exact ⟨t, by simp only [step, hf, hcmd, ht]⟩
  cases hm : s.moves with
  | nil => exact engine _ (fetch_nil hm)
  | cons m ms =>
    cases m with
    | engine => exact engine _ (fetch_engine hm)
    | access a => exact ⟨_, step_access hm⟩
    | reset b => exact ⟨_, step_reset hm⟩

/-- Settles O27: every step from a state of the invariant answers a next state, which meets it again. -/
theorem blockNeverStops : Obligations.BlockNeverStops := by
  unfold Obligations.BlockNeverStops
  intro s h k
  induction k generalizing s with
  | zero => exact ⟨s, rfl⟩
  | succ k ih =>
    obtain ⟨t, ht⟩ := h.step_next
    obtain ⟨u, hu⟩ := ih t (stepKeepsTheInvariant s t h ht)
    exact ⟨u, by rw [run_succ ht, hu]⟩

end Sys2Proof.Machine
end

section
/-! The register window seen from the bus, STATUS as a word, the error record, and the issue of a command: O4, O8, O12,
O14, O15 and O20 (R30, R60, R61, R66, R241 to R246, R251). -/

open Sys2Proof.Statements

namespace Sys2Proof.Machine

/-! ### The register map and the bus -/

/-- Settles O4: the table is `regOffset`'s own, and `regAt` is its inverse. -/
theorem registerMapOffsets : Obligations.RegisterMapOffsets := by
  unfold Obligations.RegisterMapOffsets
  exact ⟨rfl, rfl, rfl, rfl, rfl, rfl, rfl, rfl, rfl, rfl, rfl, rfl, regOffset_key_toNat, regOffset_sym_toNat,
    regAt_regOffset, fun _ _ => regOffset_of_regAt, fun _ => regAt_eq_none_iff⟩

/-- R60: an address of the window reaches its offset. -/
theorem busOffset_base_add (off : Offset) : busOffset (Config.base + off.toNat) = some off := by
  have hwindow : Config.base ≤ Config.base + off.toNat ∧ Config.base + off.toNat < Config.base + 4096 :=
    ⟨Nat.le_add_right _ _, Nat.add_lt_add_left off.isLt _⟩
  rw [busOffset, if_pos hwindow, Nat.add_sub_cancel_left, BitVec.ofNat_toNat, BitVec.setWidth_eq]

theorem busOffset_outside {addr : Nat} (h : addr < Config.base ∨ Config.base + 4096 ≤ addr) :
    busOffset addr = none :=
  if_neg fun hin => h.elim hin.1.not_gt hin.2.not_ge

/-- R66: the lane `i` of the default order carries digit `i` in base 256. -/
theorem byteLane_toNat (v : Word) (i : Fin 4) : (byteLane v i).toNat = v.toNat / 2 ^ (8 * i.val) % 2 ^ 8 := by
  change (v.extractLsb' (8 * i.val) 8).toNat = _
  rw [BitVec.extractLsb'_toNat, Nat.shiftRight_eq_div_pow]

/-- The big-endian lanes are the little-endian ones in reverse. -/
theorem byteLane_big (v : Word) (i : Fin 4) : byteLane v i .big = byteLane v (3 - i) := by
  have hlane : 24 - 8 * i.val = 8 * (3 - i).val := by revert i; decide
  change v.extractLsb' (24 - 8 * i.val) 8 = v.extractLsb' (8 * (3 - i).val) 8
  rw [hlane]

/-- Settles O14. -/
theorem busAddressesReachTheirOffsets : Obligations.BusAddressesReachTheirOffsets := by
  unfold Obligations.BusAddressesReachTheirOffsets
  refine ⟨Nat.dvd_mul_right _ _, fun off => ⟨?_, fun v => ?_⟩, fun addr => busOffset_outside, byteLane_toNat,
    fun v i => ⟨rfl, byteLane_big v i⟩⟩
  · rw [memRead, busOffset_base_add]; rfl
  · rw [memWrite, busOffset_base_add]; rfl

/-! ### STATUS as a word -/

/-- Settles O8: the word joins the fields, so each counts by the widths of those below it. -/
theorem statusWordLayout : Obligations.StatusWordLayout := by
  unfold Obligations.StatusWordLayout
  intro t
  simp only [statusWord, toNat_append_eq_add, BitVec.toNat_ofBool, BitVec.toNat_zero]
  omega

/-! ### The error record -/

/-- R245: while an error is recorded, a second one leaves its code and sets ERRMULTI. -/
theorem raiseRecord_raiseRecord {t : Status} (h : t.err = false) (e e' : ErrCode) :
    raiseRecord e' (raiseRecord e t) = { t with err := true, errcode := errCode e, errmulti := true } := by
  simp [raiseRecord, h]

/-- R245, R250: the Host's clear leaves nothing of an error, whatever the record held. -/
theorem clearRecord_two_raiseRecord (e : ErrCode) (t : Status) :
    clearRecord 2 (raiseRecord e t) = { t with err := false, errcode := 0, errmulti := false } := by
  cases h : t.err <;> simp [raiseRecord, h, clearRecord_eq]

/-- Settles O12. -/
theorem firstErrorIsKept : Obligations.FirstErrorIsKept := by
  unfold Obligations.FirstErrorIsKept
  exact fun s e e' => ⟨⟨rfl, rfl, rfl, rfl, rfl⟩, rfl,
    fun h => congrArg s.setStatus (raiseRecord_raiseRecord h e e'),
    congrArg s.setStatus (clearRecord_two_raiseRecord e s.status)⟩

/-! ### Issue -/

/-- R251: the issue of a command. -/
theorem serve_write_encode_idle {s : State} (hr : s.resetLine = false) (hp : s.phase = .idle) (i : Instr) :
    serve (.write (regOffset .cmd) 32 (encode i)) s = issueLegal i.opcode s := by
  rw [serve_write hr, regWrite_cmd_idle hp, issue_ok (decode_encode i)]

/-- Settles O15. -/
theorem legalCommandIsIssued : Obligations.LegalCommandIsIssued := by
  unfold Obligations.LegalCommandIsIssued
  exact fun s i hp hr => serve_write_encode_idle hr hp i

/-! ### Dutiful accesses -/

/-- From `t` to `t'` no error is raised: ERR and ERRMULTI are not set, and a code that is still recorded is the same. -/
def RaisesNothing (t t' : Status) : Prop :=
  (t'.err = true → t.err = true) ∧ (t'.errmulti = true → t.errmulti = true) ∧ (t'.err = true → t'.errcode = t.errcode)

theorem raisesNothing_refl (t : Status) : RaisesNothing t t := ⟨id, id, fun _ => rfl⟩

theorem raisesNothing_clearRecord (v : Word) (t : Status) : RaisesNothing t (clearRecord v t) := by
  rw [clearRecord_eq]
  cases v.getLsbD 1 <;> simp [RaisesNothing]

/-- R93: a well-formed word decodes. -/
theorem decode_ok_of_wf {w : Word} (h : (CmdFields.ofWord w).wf = true) : ∃ i, decode w = .ok i := by
  cases hw : decode w with
  | ok i => exact ⟨i, rfl⟩
  | error e => exact absurd h ((decode_error_iff_not_wf w).1 ⟨e, hw⟩)

/-- R79, R246: a dutiful write while the reset input is released. -/
theorem regWrite_raisesNothing {s : State} {off : Offset} {bits : Nat} {v : Word}
    (h : accessDuty s (.write off bits v)) : RaisesNothing s.status (regWrite off bits v s).status := by
  obtain ⟨hsup, hidle, hlegal⟩ := h
  obtain ⟨rfl, -⟩ := (supported_iff off bits).1 hsup
  cases hreg : regAt off with
  | none => rw [regWrite_reserved hreg hsup]; exact raisesNothing_refl _
  | some r =>
    obtain rfl := regOffset_of_regAt hreg
    cases hacc : regAccess r with
    | readOnly => rw [regWrite_readOnly hacc]; exact raisesNothing_refl _
    | writeOnly =>
      obtain rfl | rfl := eq_cmd_or_iclr_of_writeOnly hacc
      · obtain ⟨i, hi⟩ := decode_ok_of_wf (hlegal hreg)
        rw [regWrite_cmd_idle (hidle _ hreg (by decide) (by decide)), issue_ok hi]
        exact raisesNothing_refl _
      · rw [regWrite_iclr]; exact raisesNothing_clearRecord v s.status
    | readWrite =>
      have hne : r ≠ .iclr := by rintro rfl; cases hacc
      have hp : s.phase = .idle := hidle r hreg (by rw [hacc]; decide) hne
      obtain ⟨hstatus, -⟩ := regStore_frame s v r
      rw [regWrite_store_idle hacc hp, hstatus]
      exact raisesNothing_refl _

/-- Settles O20: in reset an access does nothing, a supported read changes no state, and a write is the lemma above. -/
theorem dutifulAccessesRaiseNothing : Obligations.DutifulAccessesRaiseNothing := by
  unfold Obligations.DutifulAccessesRaiseNothing
  intro s a h
  change RaisesNothing s.status (serve a s).status
  cases hr : s.resetLine with
  | true =>
    cases a with
    | read off bits => rw [serve_read_in_reset hr]; exact raisesNothing_refl _
    | write off bits v => rw [serve_write_in_reset hr]; exact raisesNothing_refl _
  | false =>
    cases a with
    | read off bits =>
      rw [serve_read hr, regRead_supported_state h]
      exact raisesNothing_refl _
    | write off bits v => rw [serve_write hr]; exact regWrite_raisesNothing h

end Sys2Proof.Machine
end

section
/-! What each command may write, read off its whole next state: O19 (R21 to R30, R91, R251). -/

open Sys2Proof.Statements

namespace Sys2Proof.Machine

/-! ### What a command keeps -/

/-- Replacing one symbol keeps the others. -/
theorem get_set_of_ne {p q : Fin 14} (h : q.val ≠ p.val) (w : Codeword) (v : Sym11) : (w.set p v).get q = w.get q :=
  Vector.getElem_set_ne p.isLt q.isLt h.symm

/-- R190, R191: the flag transform keeps every other position. -/
theorem unflagWord_get_of_ne {p : Fin 14} (h : p ≠ 1) (w : Codeword) (coin : Sym11) :
    (unflagWord w coin).get p = w.get p := by
  rw [unflagWord_eq, unflagged_get, unflagAt_of_ne h]

/-- R243: raising an error writes the error record alone. -/
theorem recordError_frame (e : BitVec 4) (t : Status) :
    (recordError e t).valid = t.valid ∧ (recordError e t).usable = t.usable ∧ (recordError e t).pstate = t.pstate ∧
      (recordError e t).erasure = t.erasure := by
  rw [recordError]
  split <;> exact ⟨rfl, rfl, rfl, rfl⟩

/-! ### DECODE's ways -/

@[simp] theorem erasureCount_zero : erasureCount 0#14 = 0 := by
  rw [← length_erasures]
  exact congrArg List.length erasures_zero

@[simp] theorem erasureCount_single (p : Fin 14) : erasureCount (1#14 <<< p.val) = 1 := by
  rw [← length_erasures, erasures_single, List.length_singleton]

/-- R192: DECODE stops with STATUS alone written, or it reaches the checksum stage, with 14 words and at most one
erasure. -/
theorem exec_decode_stops_or_checks (s : State) :
    (∃ o, exec .decode s = .next { s with
      status := { ended s.status with valid := false, usable := false, erasure := false, pstate := outcomeCode o }
      phase := .idle }) ∨
    (s.nwords = 14 ∧ ((∃ p : Fin 14, s.ermask = 1#14 <<< p.val) ∨ s.ermask = 0)) := by
  obtain ⟨-, h⟩ | ⟨-, h⟩ | ⟨-, -, h⟩ | ⟨hn, p, hone, -⟩ | ⟨hn, hnone, -⟩ := decodeStage_cases s
  · exact .inl ⟨_, exec_decode_stop h⟩
  · exact .inl ⟨_, exec_decode_stop h⟩
  · exact .inl ⟨_, exec_decode_stop h⟩
  · exact .inr ⟨BitVec.eq_of_toNat_eq hn, .inl ⟨p, erasures_injective (hone.trans (erasures_single p).symm)⟩⟩
  · exact .inr ⟨BitVec.eq_of_toNat_eq hn, .inr (erasures_injective (hnone.trans erasures_zero.symm))⟩

/-- R25, R26, R193 to R200: what DECODE keeps, and when. -/
theorem exec_decode_frame (s : State) :
    ∃ t, exec .decode s = .next t ∧ (t.coin = s.coin ∧ t.nwords = s.nwords ∧ t.ermask = s.ermask ∧ t.ie = s.ie) ∧
      ((s.nwords ≠ 14 ∨ 2 ≤ erasureCount s.ermask → t.sym = s.sym) ∧
        (s.nwords ≠ 14 ∨ erasureCount s.ermask ≠ 1 → t.eridx = s.eridx ∧ t.repl = s.repl) ∧
        (t.status.usable = false → t.rsv = s.rsv ∧ t.bday = s.bday ∧ t.key = s.key)) ∧
      t.status.err = s.status.err ∧ t.status.errcode = s.status.errcode ∧
      t.status.errmulti = s.status.errmulti := by
  obtain ⟨o, h⟩ | ⟨hn, ⟨p, hm⟩ | hm⟩ := exec_decode_stops_or_checks s
  · exact ⟨_, h, ⟨rfl, rfl, rfl, rfl⟩, ⟨fun _ => rfl, fun _ => ⟨rfl, rfl⟩, fun _ => ⟨rfl, rfl, rfl⟩⟩, rfl, rfl, rfl⟩
  · have hvalid := (horner_set_eq_zero_iff (unflagged s.sym s.coin) p _).2 rfl
    refine ⟨_, exec_decode_erased hn hm, ?_⟩
    rw [complete_decodeCommit_valid hvalid]
    simp [hn, hm, ended]
  · refine ⟨_, exec_decode_plain hn hm, ?_⟩
    by_cases hvalid : horner (unflagged s.sym s.coin) = 0
    · rw [complete_decodeCommit_valid hvalid]
      simp [hn, hm, ended]
    · rw [complete_decodeCommit_invalid hvalid]
      simp [hn, hm, ended]

/-! ### Every command -/

/-- Settles O19: the whole next state of each command shows what it keeps; of the clauses about SYM, the command's own
is left to a lemma. -/
theorem everyCommandCompletesWithinItsWriteSet : Obligations.EveryCommandCompletesWithinItsWriteSet := by
  unfold Obligations.EveryCommandCompletesWithinItsWriteSet
  intro i s
  cases i with
  | nop => exact ⟨_, exec_nop s, by simp [ended]⟩
  | pack => exact ⟨_, exec_pack s, by simp [ended, push_get_last]⟩
  | unpack => exact ⟨_, exec_unpack s, by simp [ended]⟩
  | genchk =>
    have hkeep (p : Fin 14) (h : p ≠ 13) := get_set_of_ne (Fin.val_ne_of_ne h) s.sym (checksym s.sym.pop)
    exact ⟨_, exec_genchk s, by simpa [ended] using hkeep⟩
  | verify => exact ⟨_, exec_verify s, by simp [ended]⟩
  | flag =>
    have hkeep (p : Fin 14) (h : p ≠ 1) := get_set_of_ne (Fin.val_ne_of_ne h) s.sym (sub11 (s.sym.get 1) s.coin)
    exact ⟨_, exec_flag s, by simpa [ended] using hkeep⟩
  | unflag =>
    have hkeep (p : Fin 14) (h : p ≠ 1) := unflagWord_get_of_ne h s.sym s.coin
    exact ⟨_, exec_unflag s, by simpa [ended] using hkeep⟩
  | repair =>
    by_cases hidx : s.eridx.toNat < 14
    · have hkeep (p : Fin 14) (h : p.val ≠ s.eridx.toNat) :=
        get_set_of_ne (p := ⟨s.eridx.toNat, hidx⟩) h s.sym (repairValue s.sym ⟨s.eridx.toNat, hidx⟩)
      exact ⟨_, exec_repair_legal (p := ⟨s.eridx.toNat, hidx⟩) rfl, by simpa [ended, hidx.not_ge] using hkeep⟩
    · exact ⟨_, exec_repair_reserved (not_lt.1 hidx), by simp [ended, hidx, recordError_frame]⟩
  | decode =>
    obtain ⟨t, h, hframe⟩ := exec_decode_frame s
    obtain ⟨u, hu, hreset, hmoves, hreplies⟩ := exec_completes .decode s
    obtain rfl : complete u = t := Host.Outcome.next.inj (hu.symm.trans h)
    refine ⟨_, h, rfl, rfl, rfl, hreset, hmoves, hreplies, ?_⟩
    simpa using hframe
  | encode => exact ⟨_, exec_encode s, by simp [ended]⟩
  | srst => exact ⟨_, exec_srst s, by simp [State.reset, Status.reset]⟩

end Sys2Proof.Machine
end

section
/-! The laws of GF(2048), a parse that ignores what its erased symbol held, and a parse under another coin flag: O31,
O52 and O55 (R121, R123, R195, R204). -/

open Sys2Proof.Statements

namespace Sys2Proof.Machine

/-! ### The laws of the field -/

@[simp] theorem gfMul_zero (a : Sym11) : gfMul a 0 = 0 := by
  have h := gfMul_xor_right a 0 0
  rwa [BitVec.xor_self, BitVec.xor_self] at h

@[simp] theorem zero_gfMul (b : Sym11) : gfMul 0 b = 0 := by
  have h := gfMul_xor_left 0 0 b
  rwa [BitVec.xor_self, BitVec.xor_self] at h

/-- Nonzero symbols are powers of α, which commute. -/
theorem gfMul_comm (a b : Sym11) : gfMul a b = gfMul b a := by
  by_cases ha : a = 0
  · rw [ha, zero_gfMul, gfMul_zero]
  by_cases hb : b = 0
  · rw [hb, zero_gfMul, gfMul_zero]
  obtain ⟨m, rfl⟩ := exists_shiftBy_one ha
  obtain ⟨n, rfl⟩ := exists_shiftBy_one hb
  rw [gfMul_shiftBy_one, gfMul_shiftBy_one, shiftBy_comm]

theorem gfMul_two (a : Sym11) : gfMul a 2 = mul2 a := gfMul_shiftBy_one a 1

/-- Settles O31. -/
theorem fieldLaws : Obligations.FieldLaws := by
  unfold Obligations.FieldLaws
  exact fun a b d => ⟨gfMul_comm a b, gfMul_assoc a b d, gfMul_xor_right a b d, gfMul_zero a, gfMul_one a,
    (gfMul_two a).symm, xor_zero_sym11 a, BitVec.xor_self, BitVec.xor_comm a b⟩

/-! ### One erasure -/

/-- The repaired value does not depend on the symbol it replaces. -/
theorem repairValue_set (w : Codeword) (p : Fin 14) (v : Sym11) : repairValue (w.set p v) p = repairValue w p := by
  rw [repairValue_eq, Vector.set_set, repairValue_eq]

/-- R195: with one symbol replaced, the parse that takes it as erased repairs the same codeword. -/
theorem repaired_unflagged_set (w : Codeword) (coin : Sym11) (p : Fin 14) (v : Sym11) :
    repairValue (unflagged (w.set p v) coin) p = repairValue (unflagged w coin) p ∧
    ∀ x, (unflagged (w.set p v) coin).set p x = (unflagged w coin).set p x := by
  rw [unflagged_set]
  exact ⟨repairValue_set _ p _, fun x => Vector.set_set ..⟩

/-- R196 to R199: DECODE with one erasure as a whole next state. -/
theorem exec_decode_repaired {s : State} {p : Fin 14} {w : Codeword} {x : Sym11} (hn : s.nwords = 14)
    (hm : s.ermask = 1#14 <<< p.val) (hx : repairValue (unflagged s.sym s.coin) p = x)
    (hw : (unflagged s.sym s.coin).set p x = w) :
    exec .decode s = .next { s with
      sym := w
      rsv := payloadRsv (unpackSyms w.pop), bday := payloadBday (unpackSyms w.pop), key := payloadKey (unpackSyms w.pop)
      eridx := BitVec.ofNat 4 p.val, repl := replacement p x s.coin
      status := { ended s.status with valid := true, usable := true, erasure := true, pstate := 4 }
      phase := .idle } := by
  have hvalid : horner w = 0 := by rw [← hw, ← hx]; exact (horner_set_eq_zero_iff _ p _).2 rfl
  rw [exec_decode_erased hn hm, hx, hw, complete_decodeCommit_valid hvalid]
  rfl

/-- Settles O52: the repair overwrites the erased symbol with a value that does not depend on it. -/
theorem erasedSymbolContentIsIgnored : Obligations.ErasedSymbolContentIsIgnored := by
  unfold Obligations.ErasedSymbolContentIsIgnored
  intro s p v hn hm
  obtain ⟨hvalue, hset⟩ := repaired_unflagged_set s.sym s.coin p v
  exact ⟨_, exec_decode_repaired hn hm rfl rfl,
    exec_decode_repaired (s := { s with sym := s.sym.set p v }) hn hm hvalue (hset _)⟩

/-! ### Another coin flag -/

theorem unflagged_get_one_ne (w : Codeword) {coin coin' : Sym11} (h : coin' ≠ coin) :
    (unflagged w coin').get 1 ≠ (unflagged w coin).get 1 := by
  rw [unflagged_get, unflagged_get]
  exact mt (BitVec.add_right_inj (w.get 1)).1 h

/-- Un-flagged under another coin flag, a text differs in the flagged symbol alone. -/
theorem unflagged_eq_set (w : Codeword) (coin coin' : Sym11) :
    unflagged w coin' = (unflagged w coin).set 1 ((unflagged w coin').get 1) := by
  rw [unflagged_get, unflagged_eq, unflagged_eq]
  exact (Vector.set_set ..).symm

/-- R204: without an erasure the checksum fails. -/
theorem horner_unflagged_wrong_coin {w : Codeword} {coin coin' : Sym11} (h : horner (unflagged w coin) = 0)
    (hne : coin' ≠ coin) : horner (unflagged w coin') ≠ 0 := by
  rw [unflagged_eq_set w coin coin']
  exact horner_set_ne_zero (p := 1) h (unflagged_get_one_ne w hne)

/-- A valid codeword is repaired with what it holds. -/
theorem repairValue_of_valid {w : Codeword} (h : horner w = 0) (p : Fin 14) : repairValue w p = w.get p :=
  ((horner_set_eq_zero_iff w p _).1 (by rw [set_get_self, h])).symm

/-- The repair undoes a wrong un-flagging where that is the symbol it overwrites; elsewhere the wrong symbol stays. -/
theorem repaired_wrong_coin_eq_iff {w : Codeword} {coin coin' : Sym11} (h : horner (unflagged w coin) = 0)
    (hne : coin' ≠ coin) (p : Fin 14) :
    ((unflagged w coin').set p (repairValue (unflagged w coin') p)).pop = (unflagged w coin).pop ↔ p = 1 := by
  constructor
  · intro heq
    by_contra hp
    have hone : (1 : Fin 14).val ≠ p.val := fun e => hp (Fin.ext e.symm)
    have hget := congrArg (fun u : PayloadSyms => u.get 1) heq
    rw [pop_get, pop_get] at hget
    exact unflagged_get_one_ne w hne ((get_set_of_ne hone _ _).symm.trans hget)
  · rintro rfl
    have hrepair : repairValue (unflagged w coin') 1 = (unflagged w coin).get 1 := by
      rw [unflagged_eq_set w coin coin']
      exact (repairValue_set _ 1 _).trans (repairValue_of_valid h 1)
    rw [hrepair, unflagged_eq_set w coin coin']
    exact congrArg Vector.pop ((Vector.set_set ..).trans (set_get_self _ 1))

/-- R95, R142: the fields unpacked from 13 symbols are those that pack into them. -/
theorem unpacked_fields_eq_iff (v : PayloadSyms) (r : BitVec 5) (b : BitVec 10) (k : BitVec 128) :
    (payloadRsv (unpackSyms v) = r ∧ payloadBday (unpackSyms v) = b ∧ payloadKey (unpackSyms v) = k) ↔
      v = packSyms (payload r b k) := by
  constructor
  · rintro ⟨rfl, rfl, rfl⟩
    rw [payload_fields, packSyms_unpackSyms]
  · rintro rfl
    rw [unpackSyms_packSyms]
    exact ⟨payloadRsv_payload r b k, payloadBday_payload r b k, payloadKey_payload r b k⟩

/-- Settles O55: un-flagged under another COIN, ENCODE's text is `seedCodeword` with another symbol at position 1. -/
theorem wrongNetworkFailsTheChecksum : Obligations.WrongNetworkFailsTheChecksum := by
  unfold Obligations.WrongNetworkFailsTheChecksum
  intro s coin hne
  have hword := unflagged_formatWord s
  have hvalid : horner (unflagged (formatWord s) s.coin) = 0 := by rw [hword, horner_seedCodeword]
  refine ⟨_, exec_encode s, ⟨_, exec_decode_plain rfl rfl, ?_⟩,
    fun p => ⟨_, exec_decode_repaired rfl rfl rfl rfl, rfl, rfl, ?_⟩⟩
  · rw [complete_decodeCommit_invalid (horner_unflagged_wrong_coin hvalid hne)]
    exact ⟨rfl, rfl⟩
  · have hpayload : (unflagged (formatWord s) s.coin).pop = packSyms (payload s.rsv s.bday s.key) := by
      rw [hword, seedCodeword, Vector.pop_push]
    rw [unpacked_fields_eq_iff, ← hpayload]
    exact repaired_wrong_coin_eq_iff hvalid hne p

end Sys2Proof.Machine
end

section
/-! The Host's statements as runs: polls of a register, stores to the idle block and `run M`; the erasure mask of a
parse and the Host's parse procedure: O29 and O57 (R25, R26, R99, R251, R293). -/

open Sys2Proof.Statements

namespace Sys2Proof.Machine

/-! ### Polls and `run M` -/

/-- No register shows the moves to come. -/
@[simp] theorem regValue_setMoves (s : State) (ms : List Move) (r : Reg) :
    regValue (s.setMoves ms) r = regValue s r := by
  cases r <;> rfl

/-- R77: the step of a `rd` that comes first. -/
theorem step_rdMove {s : State} {r : Reg} {rest : List Move} (hr : s.resetLine = false)
    (h : s.moves = rdMove r :: rest) : step s = .next ((s.setMoves rest).pushReply (regValue s r)) := by
  rw [step_access h, serve_read_reg (s := s.setMoves rest) hr, regValue_setMoves]

/-- R78: the step of a `wr` to a read-write register of the idle block. -/
theorem step_wrMove {s : State} {r : Reg} {v : Word} {rest : List Move} (hacc : regAccess r = .readWrite)
    (hp : s.phase = .idle) (hr : s.resetLine = false) (h : s.moves = wrMove r v :: rest) :
    step s = .next (regStore (s.setMoves rest) v r) := by
  rw [step_access h, serve_write (s := s.setMoves rest) hr, regWrite_store_idle hacc (s := s.setMoves rest) hp]

/-- R251: the step of a `cmd` to the idle block. -/
theorem step_cmdMove {s : State} {i : Instr} {rest : List Move} (hp : s.phase = .idle) (hr : s.resetLine = false)
    (h : s.moves = wrMove .cmd (encode i) :: rest) : step s = .next (issueLegal i.opcode (s.setMoves rest)) := by
  rw [step_access h, serve_write_encode_idle (s := s.setMoves rest) hr hp]

/-- Reads of one register return the same value each time and change nothing. -/
theorem run_rdMoves {s : State} {r : Reg} {n : Nat} {rest : List Move} (hr : s.resetLine = false)
    (h : s.moves = List.replicate n (rdMove r) ++ rest) :
    Host.Core.run core n s =
      .next { s with moves := rest, replies := List.replicate n (regValue s r) ++ s.replies } := by
  induction n generalizing s with
  | zero =>
    obtain rfl : s.moves = rest := h
    rfl
  | succ n ih =>
    rw [List.replicate_succ, List.cons_append] at h
    have hrest := ih (s := (s.setMoves (List.replicate n (rdMove r) ++ rest)).pushReply (regValue s r)) hr rfl
    refine (run_succ (step_rdMove hr h) n).trans (hrest.trans ?_)
    have hsame : regValue ((s.setMoves (List.replicate n (rdMove r) ++ rest)).pushReply (regValue s r)) r =
        regValue s r := by cases r <;> rfl
    rw [hsame, State.pushReply_replies, List.replicate_succ', List.append_assoc]
    rfl

/-- `s` with command `i` issued and `n` reads of STATUS answered while it is in progress, and the moves `ms` to come. -/
def State.polling (s : State) (i : Instr) (n : Nat) (ms : List Move) : State :=
  { s with
      status := { s.status with done := false, busy := true }
      phase := .busy i.opcode, moves := ms
      replies := List.replicate n (statusWord { s.status with done := false, busy := true }) ++ s.replies }

/-- The issue and the polls of `run i` (R99, R251). -/
theorem run_cmdMove_rdMoves {s : State} {i : Instr} {n : Nat} {ms : List Move} (hp : s.phase = .idle)
    (hr : s.resetLine = false) (h : s.moves = wrMove .cmd (encode i) :: (List.replicate n (rdMove .status) ++ ms)) :
    Host.Core.run core (n + 1) s = .next (s.polling i n ms) :=
  (run_succ (step_cmdMove hp hr h) n).trans
    (run_rdMoves (s := issueLegal i.opcode (s.setMoves (List.replicate n (rdMove .status) ++ ms))) hr rfl)

/-- The completion, and the read that sees it. -/
theorem run_polling {s u : State} {i : Instr} {n : Nat} {rest : List Move} (hr : s.resetLine = false)
    (h : exec i (s.polling i n (rdMove .status :: rest)) = .next u) :
    Host.Core.run core 2 (s.polling i n (.engine :: rdMove .status :: rest)) =
      .next { u with moves := rest, replies := statusWord u.status :: u.replies } := by
  have hengine : step (s.polling i n (.engine :: rdMove .status :: rest)) = .next u :=
    (step_busy_engine (s := s.polling i n (.engine :: rdMove .status :: rest)) hr rfl rfl).trans h
  obtain ⟨v, hv, hreset, hmoves, -⟩ := exec_completes i (s.polling i n (rdMove .status :: rest))
  obtain rfl : complete v = u := Host.Outcome.next.inj (hv.symm.trans h)
  exact (run_succ hengine 1).trans (run_one (step_rdMove (s := complete v) (hreset.trans hr) hmoves))

theorem run_expand_run {s u : State} {i : Instr} {n : Nat} {rest : List Move} (hp : s.phase = .idle)
    (hr : s.resetLine = false) (hm : s.moves = (Stmt.run i n).expand ++ rest)
    (h : exec i (s.polling i n (rdMove .status :: rest)) = .next u) :
    Host.Core.run core (n + 3) s = .next { u with moves := rest, replies := statusWord u.status :: u.replies } := by
  have hmoves : s.moves = wrMove .cmd (encode i) ::
      (List.replicate n (rdMove .status) ++ .engine :: rdMove .status :: rest) := by
    rw [hm, Stmt.expand, waitMoves, List.cons_append, List.append_assoc]
    rfl
  exact (run_add (run_cmdMove_rdMoves hp hr hmoves) 2).trans (run_polling hr h)

/-- Settles O29: `State.polling` is the state in which the command completes. -/
theorem runPseudoInstructionRunsTheCommand : Obligations.RunPseudoInstructionRunsTheCommand := by
  unfold Obligations.RunPseudoInstructionRunsTheCommand
  intro s i polls rest hp hr hm
  obtain ⟨u, hexec, -⟩ := exec_ends i (s.polling i polls (rdMove .status :: rest))
  exact ⟨u, hexec, run_expand_run hp hr hm hexec⟩

/-! ### Stores to the idle block -/

/-- The stores of a list of registers and values, in order. -/
def storeAll (ws : List (Reg × Word)) (s : State) : State := ws.foldl (fun s x => regStore s x.2 x.1) s

/-- The statements of those stores. -/
def wrStmts (ws : List (Reg × Word)) : List Stmt := ws.map fun x => .wr x.1 x.2

theorem expandAll_append (a b : List Stmt) : expandAll (a ++ b) = expandAll a ++ expandAll b :=
  List.flatMap_append

theorem expandAll_wrStmts (ws : List (Reg × Word)) : expandAll (wrStmts ws) = ws.map fun x => wrMove x.1 x.2 := by
  rw [expandAll, wrStmts, List.flatMap_map]
  exact List.map_eq_flatMap.symm

theorem regStore_setMoves (s : State) (ms : List Move) (v : Word) (r : Reg) :
    regStore (s.setMoves ms) v r = (regStore s v r).setMoves ms := by
  cases r <;> rfl

theorem storeAll_setMoves (ws : List (Reg × Word)) (s : State) (ms : List Move) :
    storeAll ws (s.setMoves ms) = (storeAll ws s).setMoves ms := by
  induction ws generalizing s with
  | nil => rfl
  | cons x ws ih => rw [storeAll, List.foldl_cons, regStore_setMoves]; exact ih _

theorem storeAll_frame (ws : List (Reg × Word)) (s : State) :
    (storeAll ws s).phase = s.phase ∧ (storeAll ws s).resetLine = s.resetLine := by
  induction ws generalizing s with
  | nil => exact ⟨rfl, rfl⟩
  | cons x ws ih =>
    obtain ⟨-, hphase, hreset, -⟩ := regStore_frame s x.2 x.1
    obtain ⟨ihphase, ihreset⟩ := ih (regStore s x.2 x.1)
    exact ⟨ihphase.trans hphase, ihreset.trans hreset⟩

/-- R65, R78: writes to read-write registers of an idle block are the stores, one step each. -/
theorem run_wrMoves {ws : List (Reg × Word)} (hws : ∀ x ∈ ws, regAccess x.1 = .readWrite) {s : State}
    {rest : List Move} (hp : s.phase = .idle) (hr : s.resetLine = false)
    (h : s.moves = ws.map (fun x => wrMove x.1 x.2) ++ rest) :
    Host.Core.run core ws.length s = .next ((storeAll ws s).setMoves rest) := by
  induction ws generalizing s with
  | nil =>
    obtain rfl : s.moves = rest := h
    rfl
  | cons x ws ih =>
    obtain ⟨-, hphase, hreset, -⟩ := regStore_frame s x.2 x.1
    have hstep := step_wrMove (hws x List.mem_cons_self) hp hr h
    rw [regStore_setMoves] at hstep
    have hrest := ih (fun y hy => hws y (List.mem_cons_of_mem _ hy))
      (s := (regStore s x.2 x.1).setMoves (ws.map (fun x => wrMove x.1 x.2) ++ rest)) (hphase.trans hp)
      (hreset.trans hr) rfl
    refine (run_succ hstep ws.length).trans (hrest.trans ?_)
    rw [storeAll_setMoves]
    rfl

/-! ### The stores of a parse -/

/-- The stores of the symbols found, at the positions `l` (R293). -/
def symbolStores (words : List (Option Sym11)) (l : List (Fin 14)) : List (Reg × Word) :=
  l.filterMap fun p => (words[p.val]?.join).map fun v => (.sym p, v.setWidth 32)

/-- What the Host writes before a parse (R293). -/
def parseStores (words : List (Option Sym11)) : List (Reg × Word) :=
  (.nwords, hostWordCount words.length) ::
    if words.length = 14 then symbolStores words (List.finRange 14) ++ [(.ermask, hostErasureMask words)] else []

theorem hostSymbolWrites_eq (words : List (Option Sym11)) :
    hostSymbolWrites words = wrStmts (symbolStores words (List.finRange 14)) := by
  simp [hostSymbolWrites, wrStmts, symbolStores, List.map_filterMap, Function.comp_def]

theorem hostParse_eq (words : List (Option Sym11)) (polls : Nat) :
    hostParse words polls = wrStmts (parseStores words) ++ [.run .decode polls] := by
  rw [hostParse, hostSymbolWrites_eq, parseStores]
  split <;> simp [wrStmts]

theorem symbolStores_readWrite {words : List (Option Sym11)} {l : List (Fin 14)} {x : Reg × Word}
    (h : x ∈ symbolStores words l) : regAccess x.1 = .readWrite := by
  obtain ⟨p, -, hp⟩ := List.mem_filterMap.1 h
  obtain ⟨v, -, rfl⟩ := Option.map_eq_some_iff.1 hp
  rfl

theorem parseStores_readWrite {words : List (Option Sym11)} {x : Reg × Word} (h : x ∈ parseStores words) :
    regAccess x.1 = .readWrite := by
  obtain rfl | h := List.mem_cons.1 h
  · rfl
  split at h
  case isTrue =>
    obtain h | h := List.mem_append.1 h
    · exact symbolStores_readWrite h
    · obtain rfl := List.mem_singleton.1 h
      rfl
  case isFalse => cases h

/-- The stores of the symbols write SYM alone, and there each symbol found at its position. -/
theorem storeAll_symbolStores (words : List (Option Sym11)) (l : List (Fin 14)) (s : State) :
    ∃ w : Codeword, storeAll (symbolStores words l) s = s.setSym w ∧
      ∀ (p : Fin 14) (v : Sym11), words[p.val]? = some (some v) → p ∈ l ∨ s.sym.get p = v → w.get p = v := by
  induction l generalizing s with
  | nil => exact ⟨s.sym, rfl, fun p v _ h => h.resolve_left List.not_mem_nil⟩
  | cons q l ih =>
    cases hq : words[q.val]?.join with
    | none =>
      obtain ⟨w, hw, hget⟩ := ih s
      refine ⟨w, by rw [symbolStores, List.filterMap_cons_none (by rw [hq]; rfl)]; exact hw, fun p v hv h => ?_⟩
      refine hget p v hv (h.imp_left fun hmem => (List.mem_cons.1 hmem).resolve_left ?_)
      rintro rfl
      rw [hv] at hq
      cases hq
    | some u =>
      obtain ⟨w, hw, hget⟩ := ih (s.setSym (s.sym.set q u))
      refine ⟨w, ?_, fun p v hv h => hget p v hv ?_⟩
      · rw [symbolStores, List.filterMap_cons_some (by rw [hq]; rfl), storeAll, List.foldl_cons, regStore,
          BitVec.setWidth_setWidth_of_le _ (by decide), BitVec.setWidth_eq]
        exact hw
      · by_cases hpq : p = q
        · subst hpq
          rw [hv] at hq
          obtain rfl : v = u := Option.some.inj hq
          exact .inr (Vector.getElem_set_self p.isLt)
        · refine h.imp (fun hmem => (List.mem_cons.1 hmem).resolve_left hpq) fun hget => ?_
          rw [State.setSym_sym, get_set_of_ne (fun e => hpq (Fin.ext e)), hget]

/-! ### What DECODE finds after the stores -/

/-- R25: the word count does not wrap. -/
theorem hostWordCount_toNat (n : Nat) : ((hostWordCount n).setWidth 16).toNat = min n 65535 := by
  rw [BitVec.toNat_setWidth, hostWordCount, BitVec.toNat_ofNat]
  omega

/-- The loop that collects the erasure mask: it sets the bits of the positions in `l` whose lookups failed. -/
theorem getLsbD_erasureMask_loop (words : List (Option Sym11)) (l : List Nat) (m : Word) {k : Nat} (hk : k < 32) :
    (l.foldl (fun m p => if words[p]? = some none then m ||| (1#32 <<< p) else m) m).getLsbD k =
      (m.getLsbD k || decide (k ∈ l ∧ words[k]? = some none)) := by
  induction l generalizing m with
  | nil => simp
  | cons p l ih =>
    rw [List.foldl_cons, ih]
    by_cases hkp : k = p
    · subst hkp
      by_cases hw : words[k]? = some none <;> simp [hw, hk]
    · have hbit : (1#32 <<< p).getLsbD k = false := by
        have hshift (h : p ≤ k) : ¬ k - p = 0 := by omega
        simpa [BitVec.getLsbD_shiftLeft, BitVec.getLsbD_one] using fun _ => hshift
      split <;> simp [hkp, hbit]

/-- R26, R293: bit `p` of the mask that is stored in ERMASK. -/
theorem getLsbD_hostErasureMask (words : List (Option Sym11)) (p : Fin 14) :
    ((hostErasureMask words).setWidth 14).getLsbD p = decide (words[p.val]? = some none) := by
  rw [BitVec.getLsbD_setWidth, hostErasureMask, getLsbD_erasureMask_loop words _ _ (by omega)]
  simp

/-- R293: with 14 words the mask has as many ones as lookups failed. -/
theorem erasureCount_hostErasureMask {words : List (Option Sym11)} (h : words.length = 14) :
    erasureCount ((hostErasureMask words).setWidth 14) = words.count none := by
  have hget (p : Fin 14) : words[p.val]? = some none ↔ List.Vector.get ⟨words, h⟩ p = none := by
    rw [List.getElem?_eq_getElem (by omega), Option.some_inj]
    rfl
  simp only [erasureCount, getLsbD_hostErasureMask, decide_eq_true_eq, hget]
  convert Fin.card_filter_univ_eq_vector_get_eq_count none (⟨words, h⟩ : List.Vector (Option Sym11) 14)
  rfl

/-- What the stores of a parse leave: NWORDS, and with 14 words also SYM and ERMASK. -/
theorem storeAll_parseStores (words : List (Option Sym11)) (s : State) :
    ∃ w : Codeword, (∀ (p : Fin 14) (v : Sym11), words[p.val]? = some (some v) → w.get p = v) ∧
      (words.length = 14 → storeAll (parseStores words) s =
        ((s.setNwords ((hostWordCount words.length).setWidth 16)).setSym w).setErmask
          ((hostErasureMask words).setWidth 14)) ∧
      (words.length ≠ 14 →
        storeAll (parseStores words) s = s.setNwords ((hostWordCount words.length).setWidth 16)) := by
  obtain ⟨w, hw, hget⟩ :=
    storeAll_symbolStores words (List.finRange 14) (s.setNwords ((hostWordCount words.length).setWidth 16))
  refine ⟨w, fun p v hv => hget p v hv (.inl (List.mem_finRange p)), fun hlen => ?_, fun hlen => ?_⟩
  · rw [parseStores, if_pos hlen, storeAll, List.foldl_cons, List.foldl_append, ← hw]
    rfl
  · rw [parseStores, if_neg hlen]
    rfl

/-- After those stores DECODE's order of outcomes sees the true word count, the failed lookups, and a text that holds
the symbols found (R247, R293). -/
theorem parseCode_storeAll_parseStores (words : List (Option Sym11)) (s : State) :
    ∃ w : Codeword, (∀ (p : Fin 14) (v : Sym11), words[p.val]? = some (some v) → w.get p = v) ∧
      let t := storeAll (parseStores words) s
      parseCode t.nwords.toNat (erasureCount t.ermask) (decide (horner (unflagged t.sym t.coin) = 0)) =
        parseCode words.length (words.count none) (decide (horner (unflagged w s.coin) = 0)) := by
  obtain ⟨w, hget, h14, hother⟩ := storeAll_parseStores words s
  refine ⟨w, hget, ?_⟩
  have hcount := hostWordCount_toNat words.length
  by_cases hlen : words.length = 14
  · simp only [h14 hlen, State.setErmask_nwords, State.setErmask_ermask, State.setErmask_sym, State.setErmask_coin,
      State.setSym_nwords, State.setSym_sym, State.setSym_coin, State.setNwords_nwords, State.setNwords_coin, hcount,
      erasureCount_hostErasureMask hlen]
    rw [hlen]
    rfl
  · simp only [hother hlen, State.setNwords_nwords, hcount]
    obtain hlt | hgt := Nat.lt_or_gt_of_ne hlen
    · rw [parseCode_of_lt (by omega), parseCode_of_lt hlt]
    · rw [parseCode_of_gt (by omega), parseCode_of_gt hgt]

/-! ### The Host's parse -/

/-- Settles O57: the stores, then `run DECODE`, whose last read is of the STATUS that DECODE leaves. -/
theorem hostParseReadsTheOutcome : Obligations.HostParseReadsTheOutcome := by
  unfold Obligations.HostParseReadsTheOutcome
  intro words polls s rest hp hr hm
  have hexpand : expandAll (hostParse words polls) =
      (parseStores words).map (fun x => wrMove x.1 x.2) ++ (Stmt.run .decode polls).expand := by
    rw [hostParse_eq, expandAll_append, expandAll_wrStmts]
    exact congrArg _ (List.append_nil _)
  rw [hexpand] at hm ⊢
  rw [List.append_assoc] at hm
  have hstores := run_wrMoves (fun x => parseStores_readWrite) hp hr hm
  obtain ⟨hphase, hreset⟩ := storeAll_frame (parseStores words) s
  obtain ⟨w, hget, hcode⟩ := parseCode_storeAll_parseStores words s
  generalize storeAll (parseStores words) s = s' at hstores hphase hreset hcode
  obtain ⟨o, u, hexec, hstatus, houtcome⟩ := exec_decode_status (s'.polling .decode polls (rdMove .status :: rest))
  obtain ⟨v, hv, hidle, -⟩ := exec_ends .decode (s'.polling .decode polls (rdMove .status :: rest))
  obtain rfl : v = u := Host.Outcome.next.inj (hv.symm.trans hexec)
  have hrun := run_expand_run (s := s'.setMoves ((Stmt.run .decode polls).expand ++ rest)) (hphase.trans hp)
    (hreset.trans hr) rfl hexec
  have hlength : ((parseStores words).map (fun x => wrMove x.1 x.2) ++ (Stmt.run .decode polls).expand).length =
      (parseStores words).length + (polls + 3) := by
    simp [Stmt.expand, waitMoves]
  refine ⟨{ v with moves := rest, replies := statusWord v.status :: v.replies }, w, ?_, rfl, hidle, rfl, hget, ?_⟩
  · rw [hlength]
    exact (run_add hstores _).trans hrun
  · calc v.status.pstate = outcomeCode o := by rw [hstatus]; rfl
      _ = _ := houtcome.trans hcode

end Sys2Proof.Machine
end
